-- ==== Sys2Proof/Word.lean ====
section
/-! DEFINITION. The words of the block and the names of its three input planes. -/

namespace Sys2Proof

/-- One sample of a plane, and one byte of the byte view of OUT (00_scope R8, 20_memory R50 to R52). -/
abbrev Byte := BitVec 8

/-- One register, one command word, one word of OUT (10_state R23, 20_memory R53). -/
abbrev Word := BitVec 32

/-- A frame dimension: the 16 stored bits of WIDTH and HEIGHT (10_state R32, R33). -/
abbrev Dim := BitVec 16

/-- The three buffers the engine reads, each an address space of its own (20_memory R50 to R52).
The fourth buffer, OUT, holds words and has operations of its own. -/
inductive Plane where
  /-- Buffer Y, the luma plane (R50). -/
  | y
  /-- Buffer A, the Cb-like chroma plane, which gives u (R51). -/
  | a
  /-- Buffer B, the Cr-like chroma plane, which gives v (R52). -/
  | b
deriving DecidableEq, Repr

end Sys2Proof
end

