-- ==== Sys2Proof/Syntax.lean ====
section
/-! DEFINITION. The block's instructions: the four host commands of 30_encoding R73. -/

namespace Sys2Proof

/-- The four commands a host writes to CMD. None has an explicit operand: the operands are the configuration
registers at the time of the CMD write (30_encoding R75). -/
inductive Instr where
  /-- NOP, word 0x00000000 (40_commands R107). -/
  | nop
  /-- CONVERT, word 0x00000001 (R103). -/
  | convert
  /-- CONVERT_ALLOC, word 0x00000002 (R104). -/
  | convertAlloc
  /-- CLEAR_STATUS, word 0x00000003 (R105). -/
  | clearStatus
deriving DecidableEq, Repr

end Sys2Proof
end

