-- ==== Sys2Proof/Decode.lean ====
section
/-! DEFINITION. Decoding a CMD word, total on all 2^32 words (30_encoding R73, R74, R78), and the encoder (R72, R73). -/

namespace Sys2Proof

/-- Why a CMD word is ILLEGAL (30_encoding R78). -/
inductive DecodeError where
  /-- The reserved bits 31:8 (RSV) are not 0, whatever OPC is. -/
  | reservedBitsSet
  /-- RSV is 0 and OPC is in 0x04 to 0xFF. -/
  | unknownOpcode
deriving DecidableEq, Repr

/-- RSV, bits 31:8 of a command word (R72). -/
def rsvField (c : Word) : BitVec 24 := c.extractLsb' 8 24

/-- OPC, bits 7:0 of a command word (R72). -/
def opcField (c : Word) : BitVec 8 := c.extractLsb' 0 8

/-- The command a CMD word stands for, or the reason it is ILLEGAL (R73, R74, R78). -/
def decodeWord (c : Word) : Except DecodeError Instr :=
  if rsvField c ≠ 0 then .error .reservedBitsSet
  else if opcField c = 0x00 then .ok .nop
  else if opcField c = 0x01 then .ok .convert
  else if opcField c = 0x02 then .ok .convertAlloc
  else if opcField c = 0x03 then .ok .clearStatus
  else .error .unknownOpcode

/-- The opcode of a command (R73). -/
def opcode : Instr → BitVec 8
  | .nop => 0x00
  | .convert => 0x01
  | .convertAlloc => 0x02
  | .clearStatus => 0x03

/-- The command word CMD32 of a command: RSV = 0 above OPC (R72, R73). -/
def encode (i : Instr) : Word := (0 : BitVec 24) ++ opcode i

/-- The command word that the low `nbits` bits of `w` make. Every command is one 32-bit word (R71). -/
def tableWord (nbits w : Nat) : Word := BitVec.ofNat 32 (w % 2 ^ nbits)

/-- The instruction the decoder reads from an instruction whose bits are `w`, numbered as
spec/opcode_table.json numbers them; the bits above `nbits` are 0. A value wider than the one 32-bit word of R71 is no
command. -/
def decodeTableWord (nbits w : Nat) : Option Instr :=
  if w % 2 ^ nbits < 2 ^ 32 then
    match decodeWord (tableWord nbits w) with
    | .ok i => some i
    | .error _ => none
  else none

end Sys2Proof
end

