-- ==== Sys2Proof/Config.lean ====
section
/-! DEFINITION. What the spec leaves open about the block: the parameter P_FMT_YUV420, the power-up contents of the
buffers, and what an operation abandoned by a reset leaves in OUT. Each is a constant without a body, so that nothing can
be proved of its value. -/

namespace Sys2Proof.Config

/-- P_FMT_YUV420, the FORMAT_TAG value that means "planar 4:2:0 subsampled layout": an OPEN 32-bit parameter
(00_scope R8, 10_state R34, 93_implementation_defined I1). A FREE VALUE, log entry 1. -/
opaque fmtYuv420 : Word

/-- What element `i` of a plane holds until the host writes it: any value (70_reset_and_hazards R202,
93_implementation_defined I10). A FREE VALUE, log entry 2. -/
opaque powerUpPlane : Plane → Nat → Byte

/-- What byte `a` of the byte view of OUT holds until it is written: any value (R202, I10).
A FREE VALUE, log entry 2. -/
opaque powerUpOut : Nat → Byte

/-- Whether, after reset number `n`, word `k` of OUT holds what an operation abandoned by that reset wrote, and not its
value before the operation: any value of the two, word by word (70_reset_and_hazards R201, 93_implementation_defined I11).
A FREE VALUE, log entry 13. -/
opaque abandonedWordKept : Nat → Nat → Bool

end Sys2Proof.Config
end

