-- ==== Sys2Proof/Machine/Bus.lean ====
section
/-! DEFINITION. What the host can do to the block, and what it sees: register accesses, buffer accesses, reset, the
turns it leaves to the engine, and the values its reads return (20_memory R54 to R66, 30_encoding R70, R80, R81,
70_reset_and_hazards R200). -/

namespace Sys2Proof.Machine

/-- The nine registers of the window (10_state R23). -/
inductive Reg where
  | cmd | status | width | height | formatTag | yCap | aCap | bCap | outLen
deriving DecidableEq, Repr

/-- The byte offset of a register in the 64-byte window (10_state R23). -/
def regOffset : Reg → BitVec 6
  | .cmd => 0x00
  | .status => 0x04
  | .width => 0x08
  | .height => 0x0C
  | .formatTag => 0x10
  | .yCap => 0x14
  | .aCap => 0x18
  | .bCap => 0x1C
  | .outLen => 0x20

/-- The register at an offset; `none` at the reserved offsets 0x24 to 0x3C (10_state R23, R39). Only used at offsets
that are multiples of 4. -/
def regAt (off : BitVec 6) : Option Reg :=
  if off = 0x00 then some .cmd
  else if off = 0x04 then some .status
  else if off = 0x08 then some .width
  else if off = 0x0C then some .height
  else if off = 0x10 then some .formatTag
  else if off = 0x14 then some .yCap
  else if off = 0x18 then some .aCap
  else if off = 0x1C then some .bCap
  else if off = 0x20 then some .outLen
  else none

/-- A host register access has a meaning only if it is 32 bits wide and its offset is a multiple of 4
(20_memory R56, 30_encoding R70). -/
def accessLegal (bits : Nat) (off : BitVec 6) : Bool := bits == 32 && off.extractLsb' 0 2 == 0

/-- One atomic action of the interleaving of 20_memory R60. -/
inductive Action where
  /-- One engine step, if the engine has one (41_pixel_walk R120). -/
  | engine
  /-- `WR OFF, d`, `bits` wide (40_commands R100; 30_encoding R70). -/
  | regWrite (bits : Nat) (off : BitVec 6) (d : Word)
  /-- `RD OFF`, `bits` wide (40_commands R101). -/
  | regRead (bits : Nat) (off : BitVec 6)
  /-- The pseudo-instruction POLL (30_encoding R81): `RD STATUS`, again for as long as it reads BUSY = 1. -/
  | poll
  /-- The host writes element `i` of a plane (the FILL of 30_encoding R80; 20_memory R66). -/
  | planeWrite (p : Plane) (i : Word) (v : Byte)
  /-- The host writes word `k` of OUT (FILL; R66). -/
  | outWrite (k : Word) (v : Word)
  /-- The host reads element `i` of a plane (R66). -/
  | planeRead (p : Plane) (i : Word)
  /-- The host reads word `k` of OUT, `MemRead(OUT, k, 4)` (00_scope R13; 20_memory R60). -/
  | outRead (k : Word)
  /-- The host reads byte `j` of the byte view of word `k` of OUT (20_memory R55). -/
  | outByteRead (k : Word) (j : Fin 4)
deriving DecidableEq, Repr

/-- One point of the interleaving: the action that comes next, and whether the reset input is asserted there.
Reset takes precedence over the action (70_reset_and_hazards R200, 60_exceptions R183 (d)). -/
structure Input where
  /-- The reset input is asserted. -/
  reset : Bool
  /-- The action of the host or of the engine at this point. -/
  act : Action
deriving DecidableEq, Repr

/-- What one host read returned, with the place it was read from. -/
inductive Observation where
  /-- A register read (40_commands R101). -/
  | reg (off : BitVec 6) (v : Word)
  /-- A read of a plane element. -/
  | plane (p : Plane) (i : Word) (v : Byte)
  /-- A read of a word of OUT. -/
  | out (k : Word) (v : Word)
  /-- A read of byte `j` of a word of OUT. -/
  | outByte (k : Word) (j : Fin 4) (v : Byte)
deriving DecidableEq, Repr

end Sys2Proof.Machine
end

