-- ==== Sys2Proof/Machine/State.lean ====
section
/-! DEFINITION. The state of the block, its buffers and its host side, as plain data (10_state, 20_memory). -/

namespace Sys2Proof.Machine

/-- The sequencer's phase (10_state R31). -/
inductive Phase where
  /-- IDLE: no operation. -/
  | idle
  /-- ZFILL: zero-filling OUT, in CONVERT_ALLOC only. -/
  | zfill
  /-- CONV: converting pixels. -/
  | conv
deriving DecidableEq, Repr

/-- The fields of STATUS (10_state R25 to R29). Bits 31:8 are reserved and have no storage (R30). -/
structure Status where
  /-- BUSY, bit 0 (R25). -/
  busy : Bool
  /-- DONE, bit 1, sticky (R26). -/
  done : Bool
  /-- FMT_SKIP, bit 2, sticky (R27). -/
  fmtSkip : Bool
  /-- TRUNC, bit 3, sticky (R28). -/
  trunc : Bool
  /-- ERR, bits 7:4 (R29). -/
  err : BitVec 4
deriving DecidableEq, Repr

/-- A memory in canonical form: the bytes that have been written, by address, the addresses strictly rising
(`Memory.wf`). An unlisted address has not been written; it holds the free power-up value of Config (R202, log entry 2). -/
abbrev Memory := List Host.Cell

/-- The one canonical form of a memory: addresses strictly rising. -/
abbrev Memory.wf (m : Memory) : Prop := m.Pairwise (fun c d => c.1 < d.1)

/-- The block (registers of 10_state R23, engine state of R31), the buffers the host attached to it (20_memory R50 to
R53), and the host side of the interface. CMD has no storage (R24). -/
structure State where
  /-- STATUS, offset 0x04 (R25 to R30). -/
  status : Status
  /-- WIDTH bits 15:0, offset 0x08 (R32). -/
  width : Dim
  /-- HEIGHT bits 15:0, offset 0x0C (R33). -/
  height : Dim
  /-- FORMAT_TAG, offset 0x10 (R34). -/
  formatTag : Word
  /-- Y_CAP, offset 0x14 (R35). -/
  yCap : Word
  /-- A_CAP, offset 0x18 (R36). -/
  aCap : Word
  /-- B_CAP, offset 0x1C (R37). -/
  bCap : Word
  /-- OUT_LEN, offset 0x20 (R38). -/
  outLen : Word
  /-- PHASE (R31). -/
  phase : Phase
  /-- ROW, the row of the next pixel (R31). -/
  row : BitVec 16
  /-- COL, the column of the next pixel (R31). -/
  col : BitVec 16
  /-- ZIDX, the next OUT word to zero-fill (R31). -/
  zidx : BitVec 32
  /-- Buffer Y (R50). -/
  bufY : Memory
  /-- Buffer A (R51). -/
  bufA : Memory
  /-- Buffer B (R52). -/
  bufB : Memory
  /-- Buffer OUT, word k at bytes 4k to 4k + 3, little-endian (R53, R55). -/
  bufOut : Memory
  /-- OUT as it was when the last operation was accepted: the prior values of an operation that a reset abandons
(70_reset_and_hazards R201). The model's own field, log entry 24. -/
  outBefore : Memory
  /-- How many resets there have been: each draws its own free values (R201). The model's own field, log entry 24. -/
  resetCount : Nat
  /-- The rest of the interleaving of host and engine (R60): what happens next, first first. The model's own field,
  log entry 3. -/
  inputs : List Input
  /-- What the host's reads have returned, latest first. The model's own field, log entry 4. -/
  observed : List Observation
deriving DecidableEq, Repr

/-- Why the machine stops with a fault. -/
inductive Fault where
  /-- Raised by the engine's MemRead at an index at or past the plane's capacity register. No rule issues one
  (00_scope R13, 41_pixel_walk R130), so no state a run reaches raises it. SAFE. -/
  | readBeyondCapacity (p : Plane) (i : Nat)
  /-- Raised by the engine's MemWrite at an index at or past OUT_LEN. No rule issues one (R13, R130), so no state a run
  reaches raises it. SAFE. -/
  | writeBeyondOutLen (k : Nat)
deriving DecidableEq, Repr

/-- Why a step has no meaning. -/
inductive Refusal where
  /-- Raised by `exec` for an instruction that has no meaning yet; no instruction of this model is left so. SAFE. -/
  | notModelled (mnemonic : String)
  /-- Raised by a host register access that is not 32 bits wide or not at a multiple of 4: "has no meaning in this
  spec, and a model refuses it" (20_memory R56). SAFE. -/
  | registerAccess (bits : Nat) (off : BitVec 6)
  /-- Raised by a host write to a buffer while BUSY = 1: "A model refuses a host buffer write while BUSY = 1"
  (20_memory R66, 70_reset_and_hazards R210). SAFE. -/
  | bufferWriteWhileBusy
deriving DecidableEq, Repr

/-- STATUS after reset: all fields 0 (10_state R45). -/
def Status.reset : Status :=
  { busy := false, done := false, fmtSkip := false, trunc := false, err := 0 }

/-- The machine right after power-up (10_state R45, 70_reset_and_hazards R202): every register and every piece of engine
state at its reset value, nothing written to any buffer, and nothing done by the host. -/
def State.reset : State :=
  { status := Status.reset, width := 0, height := 0, formatTag := 0, yCap := 0, aCap := 0, bCap := 0, outLen := 0
    phase := .idle, row := 0, col := 0, zidx := 0
    bufY := [], bufA := [], bufB := [], bufOut := [], outBefore := [], resetCount := 0
    inputs := [], observed := [] }

end Sys2Proof.Machine
end

