-- ==== Sys2Proof/Machine/Flags.lean ====
section
/-! DEFINITION. STATUS: its word, and every way a field of it changes (10_state R25 to R30, 40_commands R110,
60_exceptions R180). -/

namespace Sys2Proof.Machine

/-- A flag as one bit. -/
def bit (b : Bool) : BitVec 1 := if b then 1 else 0

/-- The STATUS word, `zext_32(ERR ++ TRUNC ++ FMT_SKIP ++ DONE ++ BUSY)` (10_state R30, 30_encoding R76). -/
def Status.word (st : Status) : Word :=
  (0 : BitVec 24) ++ (st.err ++ (bit st.trunc ++ (bit st.fmtSkip ++ (bit st.done ++ bit st.busy))))

/-- ERR code 1, ILLEGAL_CMD (10_state R29). -/
def errIllegalCmd : BitVec 4 := 1

/-- ERR code 2, BUSY_REJECT (R29). -/
def errBusyReject : BitVec 4 := 2

/-- ERR code 3, OUT_TOO_SMALL (R29). -/
def errOutTooSmall : BitVec 4 := 3

/-- `clear_flags()`: DONE, FMT_SKIP, TRUNC and ERR become 0 and BUSY is left alone (40_commands R110). -/
def Status.cleared (st : Status) : Status :=
  { st with done := false, fmtSkip := false, trunc := false, err := 0 }

/-- STATUS with an error code in ERR; the latest code overwrites (60_exceptions R180). -/
def Status.withErr (st : Status) (code : BitVec 4) : Status := { st with err := code }

/-- STATUS when an operation starts: BUSY = 1 and the sticky fields cleared (40_commands R103, R104). -/
def Status.started (st : Status) : Status := { st.cleared with busy := true }

/-- STATUS when an operation ends: BUSY = 0 and DONE = 1, the rest left as it is (41_pixel_walk R136). -/
def Status.completed (st : Status) : Status := { st with busy := false, done := true }

/-- STATUS after a CONVERT that ends at once on a format mismatch (40_commands R103). -/
def Status.formatSkipped (st : Status) : Status := { st.cleared with fmtSkip := true, done := true }

/-- STATUS after OUT_TOO_SMALL (40_commands R106), the flags having been cleared first. -/
def Status.outTooSmall (st : Status) : Status := { st.cleared.withErr errOutTooSmall with done := true }

end Sys2Proof.Machine
end

