-- ==== Sys2Proof/Machine/Operands.lean ====
section
/-! DEFINITION. The implicit operands of the commands and of the engine's micro-operations: the quantities of 00_scope R15, as exact
natural numbers, none of them stored (30_encoding R75, 41_pixel_walk R122 to R128). -/

namespace Sys2Proof.Machine

/-- W, the frame width (00_scope R15). -/
def frameW (s : State) : Nat := s.width.toNat

/-- H, the frame height (R15). -/
def frameH (s : State) : Nat := s.height.toNat

/-- NPIX = W · H, exact (R15, 40_commands R106). -/
def npix (s : State) : Nat := frameW s * frameH s

/-- CCAP = min(A_CAP, B_CAP), the chroma capacity of the guard (41_pixel_walk R127). -/
def ccap (s : State) : Nat := min s.aCap.toNat s.bCap.toNat

/-- k, the luma and output cursor of pixel (i, j): i · W + j (R123). -/
def lumaCursor (s : State) (i j : Nat) : Nat := i * frameW s + j

/-- uvRowBase = (i >> 1) · W: two luma rows share one chroma row, whose stride is W (R122). -/
def uvRowBase (s : State) (i : Nat) : Nat := i / 2 * frameW s

/-- uvPos, the chroma cursor of pixel (i, j): uvRowBase + 2 · (j >> 1) (R124). -/
def uvPos (s : State) (i j : Nat) : Nat := uvRowBase s i + 2 * (j / 2)

/-- The interleave resolver's address in plane A (R125). -/
def chromaAddrA (s : State) (i j : Nat) : Nat := uvPos s i j

/-- The interleave resolver's address in plane B: the +1 offset is mandatory (R125, R126). -/
def chromaAddrB (s : State) (i j : Nat) : Nat := uvPos s i j + 1

/-- The bounds guard of pixel (i, j), in exact arithmetic: CCAP = 0 trips it for every pixel (R128). -/
def guardTrips (s : State) (i j : Nat) : Bool :=
  decide (uvPos s i j + 1 ≥ ccap s) || decide (lumaCursor s i j ≥ s.yCap.toNat)

/-- ROW, the row of the next pixel (10_state R31). -/
def curRow (s : State) : Nat := s.row.toNat

/-- COL, the column of the next pixel (R31). -/
def curCol (s : State) : Nat := s.col.toNat

/-- The contents of a plane. -/
def planeMem (s : State) : Plane → Memory
  | .y => s.bufY
  | .a => s.bufA
  | .b => s.bufB

/-- The declared capacity of a plane: Y_CAP, A_CAP or B_CAP (10_state R35 to R37). -/
def planeCap (s : State) : Plane → Nat
  | .y => s.yCap.toNat
  | .a => s.aCap.toNat
  | .b => s.bCap.toNat

end Sys2Proof.Machine
end

