-- ==== Sys2Proof/Machine/Ops.lean ====
section
/-! DEFINITION. The named operations over memory and registers: MemRead and MemWrite (00_scope R13), set_err (60_exceptions R180),
complete (41_pixel_walk R136) and reset (70_reset_and_hazards R200). The block has no trap: set_err is all that an
error does (60_exceptions R184). -/

namespace Sys2Proof.Machine

/-! ### Memory -/

/-- The byte written at an address, if one was. -/
def Memory.lookup : Memory → Nat → Option Byte
  | [], _ => none
  | (a, v) :: m, x => if a = x then some v else Memory.lookup m x

/-- A memory after a byte is written; keeps the canonical form. -/
def Memory.insert : Memory → Nat → Byte → Memory
  | [], x, w => [(x, w)]
  | (a, v) :: m, x, w =>
    if x < a then (x, w) :: (a, v) :: m
    else if x = a then (x, w) :: m
    else (a, v) :: Memory.insert m x w

/-- Byte `j` of the byte view of an OUT word or of a register's value: little-endian (20_memory R55). -/
def byteView (w : Word) (j : Nat) : Byte := w.extractLsb' (8 * j) 8

/-- The word whose byte view is `b0`, `b1`, `b2`, `b3` from byte offset 0 up (R55). -/
def wordOfBytes (b0 b1 b2 b3 : Byte) : Word := b3 ++ (b2 ++ (b1 ++ b0))

/-- A memory after the four bytes of a word are written, the word index being `k` (R53, R55). -/
def Memory.insertWord (m : Memory) (k : Nat) (w : Word) : Memory :=
  (((m.insert (4 * k) (byteView w 0)).insert (4 * k + 1) (byteView w 1)).insert (4 * k + 2) (byteView w 2)).insert
    (4 * k + 3) (byteView w 3)

/-- The byte at index `i` of a plane: the byte last written there, or the free power-up byte (R50 to R52, R202). -/
def planeByte (s : State) (p : Plane) (i : Nat) : Byte :=
  ((planeMem s p).lookup i).getD (Config.powerUpPlane p i)

/-- Byte `a` of the byte view of OUT (R55), written or free (R202). -/
def outByte (s : State) (a : Nat) : Byte := (s.bufOut.lookup a).getD (Config.powerUpOut a)

/-- Word `k` of OUT, `MemRead(OUT, k, 4)` (00_scope R13). -/
def outWord (s : State) (k : Nat) : Word :=
  wordOfBytes (outByte s (4 * k)) (outByte s (4 * k + 1)) (outByte s (4 * k + 2)) (outByte s (4 * k + 3))

/-- A memory of words that takes the words `keep` names from `written` and the others from `prior`; keeps the canonical
form. -/
def Memory.mergeWords (keep : Nat → Bool) (written prior : Memory) : Memory :=
  (prior.filter fun c => !keep (c.1 / 4)).foldr (fun c m => Memory.insert m c.1 c.2)
    (written.filter fun c => keep (c.1 / 4))

/-- Byte `a` of OUT as it was when the last operation was accepted. -/
def priorByte (s : State) (a : Nat) : Byte := (s.outBefore.lookup a).getD (Config.powerUpOut a)

/-- Word `k` of OUT as it was when the last operation was accepted: its prior value (70_reset_and_hazards R201). -/
def priorWord (s : State) (k : Nat) : Word :=
  wordOfBytes (priorByte s (4 * k)) (priorByte s (4 * k + 1)) (priorByte s (4 * k + 2)) (priorByte s (4 * k + 3))

/-- Whether the next reset leaves word `k` of OUT as it is. Words at NPIX and above always stay
(93_implementation_defined I11); each other word is drawn. -/
def resetKeepsWord (s : State) (k : Nat) : Bool := decide (npix s ≤ k) || Config.abandonedWordKept s.resetCount k

/-- OUT after a reset. While BUSY = 1 the reset abandons the operation, and each word holds, by a free choice of its own,
the value the operation wrote or the value from before it (70_reset_and_hazards R201, log entry 13); otherwise OUT stays. -/
def outAfterReset (s : State) : Memory :=
  if s.status.busy then Memory.mergeWords (resetKeepsWord s) s.bufOut s.outBefore else s.bufOut

/-- A byte stored in a plane. -/
def putPlane (s : State) (p : Plane) (i : Nat) (v : Byte) : State :=
  { s with
    bufY := if p = .y then s.bufY.insert i v else s.bufY
    bufA := if p = .a then s.bufA.insert i v else s.bufA
    bufB := if p = .b then s.bufB.insert i v else s.bufB }

/-- A word stored in OUT. -/
def putOut (s : State) (k : Nat) (w : Word) : State := { s with bufOut := s.bufOut.insertWord k w }

/-- The engine's `MemRead(S, i, 1)`: the byte, or a fault at or past the plane's capacity register (00_scope R13,
41_pixel_walk R130). -/
def memRead (s : State) (p : Plane) (i : Nat) : Except Fault Byte :=
  if i < planeCap s p then .ok (planeByte s p i) else .error (.readBeyondCapacity p i)

/-- The engine's `MemWrite(OUT, k, 4, w)`: OUT with the word stored, or a fault at or past OUT_LEN (R13, R130). -/
def memWrite (s : State) (k : Nat) (w : Word) : Except Fault State :=
  if k < s.outLen.toNat then .ok (putOut s k w) else .error (.writeBeyondOutLen k)

/-- Go on with what an access answered, or stop with its fault. -/
def withAccess {α : Type} (r : Except Fault α) (f : α → Host.Outcome State Fault Refusal) :
    Host.Outcome State Fault Refusal :=
  match r with
  | .ok x => f x
  | .error e => .fault e

/-! ### Registers and the engine's state -/

/-- `set_err(code)`: ERR takes the code and nothing else changes (60_exceptions R180, R184). -/
def setErr (s : State) (code : BitVec 4) : State := { s with status := s.status.withErr code }

/-- `complete()`: the end of an operation (41_pixel_walk R136). -/
def complete (s : State) : State :=
  { s with phase := .idle, row := 0, col := 0, zidx := 0, status := s.status.completed }

/-- A reset: every register and every piece of engine state at its reset value, no plane written, and OUT as an abandoned
operation leaves it (70_reset_and_hazards R200, R201, 10_state R45). The host side is not the block's: what the host still
does and has read stays. -/
def resetBlock (s : State) : State :=
  { s with
    status := State.reset.status, width := State.reset.width, height := State.reset.height
    formatTag := State.reset.formatTag, yCap := State.reset.yCap, aCap := State.reset.aCap, bCap := State.reset.bCap
    outLen := State.reset.outLen, phase := State.reset.phase, row := State.reset.row, col := State.reset.col
    zidx := State.reset.zidx, bufOut := outAfterReset s, resetCount := s.resetCount + 1 }

/-- A host read's result, recorded on the host side. -/
def observe (s : State) (o : Observation) : State := { s with observed := o :: s.observed }

/-- The rest of the interleaving, replaced. -/
def withInputs (s : State) (rest : List Input) : State := { s with inputs := rest }

end Sys2Proof.Machine
end

