-- ==== Sys2Proof/Machine/Commands.lean ====
section
/-! DEFINITION. The four commands' immediate effects at the CMD write (40_commands R102 to R110). The checks stand in the order
of R102: a busy block rejects first, then OUT_LEN is checked, then the format tag. An operation that starts keeps what OUT
held before it, for a reset that abandons it (70_reset_and_hazards R201). -/

namespace Sys2Proof.Machine

/-- `busy_reject(op)`: ERR = 2 and nothing else; the command is not queued (40_commands R109). -/
def busyReject (s : State) : State := setErr s errBusyReject

/-- `illegal(c)`: ERR = 1 and nothing else, in either BUSY state (R108). -/
def illegalCommand (s : State) : State := setErr s errIllegalCmd

/-- A command that a busy block rejects, and that otherwise has the effect given (R102, R109). -/
def unlessBusy (s : State) (effect : State → State) : State := if s.status.busy then busyReject s else effect s

/-- `out_too_small()` after `clear_flags()`: ERR = 3 and DONE = 1, no operation starts (R106). -/
def outTooSmall (s : State) : State := { s with status := s.status.outTooSmall }

/-- `convert()` (R103). -/
def convert (s : State) : State :=
  if s.outLen.toNat < npix s then outTooSmall s
  else if s.formatTag ≠ Config.fmtYuv420 then { s with status := s.status.formatSkipped }
  else { s with phase := .conv, row := 0, col := 0, status := s.status.started, outBefore := s.bufOut }

/-- `convert_alloc()`: the format tag is examined only after the zero-fill (R104). -/
def convertAlloc (s : State) : State :=
  if s.outLen.toNat < npix s then outTooSmall s
  else { s with phase := .zfill, zidx := 0, status := s.status.started, outBefore := s.bufOut }

/-- `clear_status()` (R105). -/
def clearStatus (s : State) : State := { s with status := s.status.cleared }

/-- NOP: nothing, in either BUSY state (R107). -/
def execNop (s : State) : Host.Outcome State Fault Refusal := .next s

/-- CONVERT: convert into a caller-supplied output buffer (R103, R109). -/
def execConvert (s : State) : Host.Outcome State Fault Refusal := .next (unlessBusy s convert)

/-- CONVERT_ALLOC: convert into a freshly allocated, zero-filled output buffer (R104, R109). -/
def execConvertAlloc (s : State) : Host.Outcome State Fault Refusal := .next (unlessBusy s convertAlloc)

/-- CLEAR_STATUS: clear the sticky status fields (R105, R109). -/
def execClearStatus (s : State) : Host.Outcome State Fault Refusal := .next (unlessBusy s clearStatus)

end Sys2Proof.Machine
end

