-- ==== Sys2Proof/Machine/Transform.lean ====
section
/-! DEFINITION. The colour-space transform with its saturation unit, in exact integers (42_color_transform R140 to R152). -/

namespace Sys2Proof.Machine

/-- The raw channels RR, GR, BR of one pixel, before saturation (10_state R21). -/
structure RawChannels where
  /-- RR (42_color_transform R143). -/
  red : Int
  /-- GR (R144). -/
  green : Int
  /-- BR (R145). -/
  blue : Int
deriving DecidableEq, Repr

/-- The number of fractional bits of the coefficients: they are scaled by 1024 (00_scope R8, 43_output_packer R162). -/
def scaleBits : Nat := 10

/-- The saturation bound 2^18 - 1 = 262143 (42_color_transform R147, 43_output_packer R162). -/
def satMax : Int := 262143

/-- `clamp(lo, hi, x)` (00_scope R11). -/
def clamp (lo hi x : Int) : Int := if x < lo then lo else if hi < x then hi else x

/-- The chroma bias: the byte zero-extended, less 128 (R141). -/
def bias (c : Byte) : Int := (c.toNat : Int) - 128

/-- The luma term; no offset is subtracted from y1 (R142). -/
def lumaTerm (y1 : Byte) : Int := 1192 * (y1.toNat : Int)

/-- The fixed-point equations of the three channels (R142 to R145). -/
def transform (y1 : Byte) (u v : Int) : RawChannels :=
  { red := lumaTerm y1 + 1634 * v
    green := lumaTerm y1 - 833 * v - 400 * u
    blue := lumaTerm y1 + 2066 * u }

/-- Saturation of one channel to [0, 262143] (R147). -/
def saturate (x : Int) : Nat := (clamp 0 satMax x).toNat

end Sys2Proof.Machine
end

