-- ==== Sys2Proof/Machine/Packer.lean ====
section
/-! DEFINITION. The output packer: three saturated channels in one 32-bit word (43_output_packer R160 to R165). -/

namespace Sys2Proof.Machine

/-- `pack(rs, gs, bs)`. Each channel is de-scaled by the 10 fractional bits and placed at bit 16, 8 or 0: shifts left 6,
right 2 and right 10, taken from the scale (R160, R162). -/
def pack (rs gs bs : Nat) : Word :=
  BitVec.ofNat 32
    (((rs <<< (16 - scaleBits)) &&& 0xFF0000) ||| ((gs >>> (scaleBits - 8)) &&& 0xFF00) ||| ((bs >>> scaleBits) &&& 0xFF))

/-- The OUT word of a pixel from its three samples: bias, transform, saturate, pack (30_encoding R82,
42_color_transform R141 to R147, 43_output_packer R160). -/
def pixelWord (y1 ca cb : Byte) : Word :=
  let raw := transform y1 (bias ca) (bias cb)
  pack (saturate raw.red) (saturate raw.green) (saturate raw.blue)

end Sys2Proof.Machine
end

