-- ==== Sys2Proof/Machine/PixelWalk.lean ====
section
/-! DEFINITION. The engine: one atomic step of the zero-fill phase or of the pixel walk (41_pixel_walk R120 to R136,
43_output_packer R163 to R167). -/

namespace Sys2Proof.Machine

/-- The cursor after a converted pixel: the next column, or column 0 of the next row (41_pixel_walk R132, R133). -/
def advance (s : State) : State :=
  { s with
    col := if curCol s + 1 < frameW s then s.col + 1 else 0
    row := if curCol s + 1 < frameW s then s.row else s.row + 1 }

/-- The guard tripped: TRUNC is set and the rest of the row is abandoned (R128, R134). -/
def truncateRow (s : State) : State :=
  { s with status := { s.status with trunc := true }, row := s.row + 1, col := 0 }

/-- The pixel at the cursor: fetch, transform, saturate, pack, store, advance (R121, R129; 43_output_packer R163). -/
def convertPixel (s : State) : Host.Outcome State Fault Refusal :=
  withAccess (memRead s .y (lumaCursor s (curRow s) (curCol s))) fun y1 =>
    withAccess (memRead s .a (chromaAddrA s (curRow s) (curCol s))) fun ca =>
      withAccess (memRead s .b (chromaAddrB s (curRow s) (curCol s))) fun cb =>
        withAccess (memWrite s (lumaCursor s (curRow s) (curCol s)) (pixelWord y1 ca cb)) fun t => .next (advance t)

/-- `conv_step()`: completion, or the guard, or the pixel at the cursor (R121, R136). -/
def convStep (s : State) : Host.Outcome State Fault Refusal :=
  if curRow s = frameH s ∨ frameW s = 0 then .next (complete s)
  else if guardTrips s (curRow s) (curCol s) then .next (truncateRow s)
  else convertPixel s

/-- `after_zfill()`: the format check that follows the zero-fill (43_output_packer R167). -/
def afterZfill (s : State) : State :=
  if s.formatTag ≠ Config.fmtYuv420 then complete { s with status := { s.status with fmtSkip := true } }
  else { s with phase := .conv, row := 0, col := 0 }

/-- `zfill_step()`: one OUT word zeroed, or the end of the phase (43_output_packer R166). -/
def zfillStep (s : State) : Host.Outcome State Fault Refusal :=
  if s.zidx.toNat < npix s then
    withAccess (memWrite s s.zidx.toNat 0) fun t => .next { t with zidx := t.zidx + 1 }
  else .next (afterZfill s)

/-- The engine's one enabled step. In IDLE it has none, and its turn changes nothing (41_pixel_walk R120,
60_exceptions R196, log entry 5). -/
def engineStep (s : State) : Host.Outcome State Fault Refusal :=
  match s.phase with
  | .idle => .next s
  | .zfill => zfillStep s
  | .conv => convStep s

end Sys2Proof.Machine
end

