-- ==== Sys2Proof/WellFormed.lean ====
section
/-! DEFINITION. What makes an instruction, and an input of the block, well formed. -/

namespace Sys2Proof

/-- Every command is well formed: commands have no immediate or register fields (30_encoding R75). -/
def Instr.wellFormed : Instr → Bool
  | .nop => true
  | .convert => true
  | .convertAlloc => true
  | .clearStatus => true

namespace Machine

/-- An action has a meaning: a register access is 32 bits wide at an offset that is a multiple of 4 (20_memory R56).
Every other action is typed by its indices and values. -/
def Action.wellFormed : Action → Bool
  | .engine => true
  | .regWrite bits off _ => accessLegal bits off
  | .regRead bits off => accessLegal bits off
  | .poll => true
  | .planeWrite _ _ _ => true
  | .outWrite _ _ => true
  | .planeRead _ _ => true
  | .outRead _ => true
  | .outByteRead _ _ => true

/-- An input is well formed: its action has a meaning, or reset overrides it. -/
def Input.wellFormed (i : Input) : Bool := i.reset || i.act.wellFormed

end Machine

end Sys2Proof
end

