-- ==== Sys2Proof/Machine/HostPort.lean ====
section
/-! DEFINITION. The host interface: register reads and writes, buffer reads and writes, POLL and reset (40_commands R100 to R102,
20_memory R55, R56, R66, 70_reset_and_hazards R200). -/

namespace Sys2Proof.Machine

/-- `command(c)`: a CMD write decodes and runs its command at once; an ILLEGAL word sets ERR = 1 (40_commands R102,
R108). -/
def command (c : Word) (s : State) : Host.Outcome State Fault Refusal :=
  match decodeWord c with
  | .ok i => exec i s
  | .error _ => .next (illegalCommand s)

/-- A configuration register write: applied at once if BUSY = 0, else dropped with ERR = 2 (10_state R40). -/
def configWrite (s : State) (write : State → State) : State := if s.status.busy then setErr s errBusyReject else write s

/-- `WR OFF, d` on the register at OFF; `none` is a reserved offset (40_commands R100). -/
def regWrite (r : Option Reg) (d : Word) (s : State) : Host.Outcome State Fault Refusal :=
  match r with
  | some .cmd => command d s
  | some .status => .next s
  | some .width => .next (configWrite s fun t => { t with width := d.extractLsb' 0 16 })
  | some .height => .next (configWrite s fun t => { t with height := d.extractLsb' 0 16 })
  | some .formatTag => .next (configWrite s fun t => { t with formatTag := d })
  | some .yCap => .next (configWrite s fun t => { t with yCap := d })
  | some .aCap => .next (configWrite s fun t => { t with aCap := d })
  | some .bCap => .next (configWrite s fun t => { t with bCap := d })
  | some .outLen => .next (configWrite s fun t => { t with outLen := d })
  | none => .next s

/-- `RD OFF` on the register at OFF: the value returned (40_commands R101, 10_state R24, R30, R39, R41). -/
def regRead (r : Option Reg) (s : State) : Word :=
  match r with
  | some .cmd => 0
  | some .status => s.status.word
  | some .width => s.width.setWidth 32
  | some .height => s.height.setWidth 32
  | some .formatTag => s.formatTag
  | some .yCap => s.yCap
  | some .aCap => s.aCap
  | some .bCap => s.bCap
  | some .outLen => s.outLen
  | none => 0

/-- A host buffer write: a host duty forbids it while BUSY = 1, and the model refuses it (20_memory R66). -/
def bufferWrite (s t : State) : Host.Outcome State Fault Refusal :=
  if s.status.busy then .refused .bufferWriteWhileBusy else .next t

/-- POLL: `RD STATUS`, and again, after an engine step, for as long as it reads BUSY = 1 (30_encoding R81,
log entry 6). -/
def pollStatus (s : State) : State :=
  { observe s (.reg (regOffset .status) s.status.word) with
    inputs :=
      if s.status.busy then { reset := false, act := .engine } :: { reset := false, act := .poll } :: s.inputs
      else s.inputs }

/-- One atomic action of the interleaving (20_memory R60). -/
def act (a : Action) (s : State) : Host.Outcome State Fault Refusal :=
  match a with
  | .engine => engineStep s
  | .regWrite bits off d => if accessLegal bits off then regWrite (regAt off) d s else .refused (.registerAccess bits off)
  | .regRead bits off =>
    if accessLegal bits off then .next (observe s (.reg off (regRead (regAt off) s))) else .refused (.registerAccess bits off)
  | .poll => .next (pollStatus s)
  | .planeWrite p i v => bufferWrite s (putPlane s p i.toNat v)
  | .outWrite k v => bufferWrite s (putOut s k.toNat v)
  | .planeRead p i => .next (observe s (.plane p i (planeByte s p i.toNat)))
  | .outRead k => .next (observe s (.out k (outWord s k.toNat)))
  | .outByteRead k j => .next (observe s (.outByte k j (outByte s (4 * k.toNat + j.val))))

/-- What happens at one point of the interleaving: a reset if the reset input is asserted, else the action
(70_reset_and_hazards R200, 60_exceptions R183 (d), log entry 7). -/
def applyInput (i : Input) (s : State) : Host.Outcome State Fault Refusal :=
  if i.reset then .next (resetBlock s) else act i.act s

end Sys2Proof.Machine
end

