-- ==== Sys2Proof/Machine/Step.lean ====
section
/-! DEFINITION. One step of the machine: the next input of the interleaving, or, when the host does nothing more, the engine's step
(20_memory R60, 41_pixel_walk R120, R137). -/

namespace Sys2Proof.Machine

/-- One step. With no input left the engine goes on by itself: an operation completes "with no further host action"
(41_pixel_walk R137). -/
def step (s : State) : Host.Outcome State Fault Refusal :=
  match s.inputs with
  | [] => engineStep s
  | i :: rest => applyInput i (withInputs s rest)

/-- `s` with the command word `w` as what the host writes to CMD next. The block fetches no instructions (00_scope R4):
an instruction reaches it only as a 32-bit write to CMD (30_encoding R71), log entry 8. -/
def State.withFetchWord (s : State) (nbits w : Nat) : State :=
  { s with inputs := { reset := false, act := .regWrite 32 (regOffset .cmd) (tableWord nbits w) } :: s.inputs }

end Sys2Proof.Machine
end

