-- ==== Sys2Proof/Machine/Script.lean ====
section
/-! DEFINITION. The host-script notation and its pseudo-instructions, as inputs of the machine (30_encoding R80, R81). -/

namespace Sys2Proof.Machine.Script

/-- An action with the reset input not asserted. -/
def plain (a : Action) : Input := { reset := false, act := a }

/-- A turn of the engine. -/
def engineTurn : Input := plain .engine

/-- The reset input asserted (70_reset_and_hazards R200). -/
def assertReset : Input := { reset := true, act := .engine }

/-- `WR <REG>, <value>` (R80). -/
def wr (r : Reg) (v : Word) : Input := plain (.regWrite 32 (regOffset r) v)

/-- `RD <REG>` (R80). -/
def rd (r : Reg) : Input := plain (.regRead 32 (regOffset r))

/-- `FILL <BUF>[i ..] = …` for a plane (R80). -/
def fillPlane (p : Plane) : Nat → List Byte → List Input
  | _, [] => []
  | i, v :: vs => plain (.planeWrite p (BitVec.ofNat 32 i) v) :: fillPlane p (i + 1) vs

/-- `FILL OUT[k ..] = …` (R80). -/
def fillOut : Nat → List Word → List Input
  | _, [] => []
  | k, v :: vs => plain (.outWrite (BitVec.ofNat 32 k) v) :: fillOut (k + 1) vs

/-- `CMD <command>` (R81). -/
def cmd (i : Instr) : Input := wr .cmd (encode i)

/-- `POLL` (R81). -/
def poll : Input := plain .poll

/-- `SETUP W, H, TAG, YC, AC, BC, OL`: seven writes in that order (R81). -/
def setup (w h tag yc ac bc ol : Word) : List Input :=
  [wr .width w, wr .height h, wr .formatTag tag, wr .yCap yc, wr .aCap ac, wr .bCap bc, wr .outLen ol]

end Sys2Proof.Machine.Script
end

