-- ==== Sys2Proof/Safety.lean ====
section
/-! DEFINITION. The terms claims are made in: runs, the invariants of the machine, and the value the rules give an OUT word. -/

namespace Sys2Proof.Machine

/-- `n` steps, stopping at the first fault or refusal. -/
def run : Nat → State → Host.Outcome State Fault Refusal
  | 0, s => .next s
  | n + 1, s =>
    match step s with
    | .next t => run n t
    | .fault f => .fault f
    | .refused r => .refused r

/-- The run of `n` steps is safe: it meets no fault and no refusal. -/
def SafeRun (n : Nat) (s : State) : Prop := ∃ t, run n s = .next t

/-- The action is a host write to a buffer, which a host duty forbids while BUSY = 1 (20_memory R66). -/
def Action.writesBuffer : Action → Bool
  | .planeWrite _ _ _ => true
  | .outWrite _ _ => true
  | .engine => false
  | .regWrite _ _ _ => false
  | .regRead _ _ => false
  | .poll => false
  | .planeRead _ _ => false
  | .outRead _ => false
  | .outByteRead _ _ => false

/-- The invariants (a) to (d) of 10_state R46. -/
structure SequencerInv (s : State) : Prop where
  /-- (a) BUSY = 1 if and only if PHASE ≠ IDLE. -/
  busyIffActive : s.status.busy = true ↔ s.phase ≠ .idle
  /-- (b), first half: in CONV, ROW ≤ H. -/
  rowInFrame : s.phase = .conv → curRow s ≤ frameH s
  /-- (b), second half: in CONV, if ROW < H and W > 0 then COL < W. -/
  colInRow : s.phase = .conv → curRow s < frameH s → 0 < frameW s → curCol s < frameW s
  /-- (c) In ZFILL, ZIDX ≤ W · H ≤ OUT_LEN. -/
  zfillInBounds : s.phase = .zfill → s.zidx.toNat ≤ npix s ∧ npix s ≤ s.outLen.toNat
  /-- (d) In PHASE ≠ IDLE, OUT_LEN ≥ W · H. -/
  outLongEnough : s.phase ≠ .idle → npix s ≤ s.outLen.toNat

/-- No cursor leaves the frame, in any phase (10_state R22), and an idle engine's cursors are 0 (41_pixel_walk R136,
10_state R45). -/
structure CursorInv (s : State) : Prop where
  /-- ROW never exceeds HEIGHT. -/
  row : curRow s ≤ frameH s
  /-- COL never exceeds WIDTH - 1, or 0 when WIDTH = 0. -/
  col : curCol s ≤ frameW s - 1
  /-- ZIDX never exceeds WIDTH · HEIGHT. -/
  zidx : s.zidx.toNat ≤ npix s
  /-- In IDLE the cursors are 0. -/
  idle : s.phase = .idle → s.row = 0 ∧ s.col = 0 ∧ s.zidx = 0
  /-- The pixel cursor is 0 while OUT is zero-filled. -/
  zfill : s.phase = .zfill → s.row = 0 ∧ s.col = 0

/-- What STATUS can say together: no end of operation is reported while BUSY = 1 (70_reset_and_hazards R213), and ERR
holds no reserved code (10_state R29, 93_implementation_defined I4). -/
structure StatusInv (s : State) : Prop where
  /-- While BUSY = 1, DONE and FMT_SKIP are 0. -/
  busyNotEnded : s.status.busy = true → s.status.done = false ∧ s.status.fmtSkip = false
  /-- ERR codes 4 to 15 are never produced. -/
  errCode : s.status.err.toNat ≤ 3

/-- Pixels are converted only with the expected format tag (10_state R34). -/
def FormatInv (s : State) : Prop := s.phase = .conv → s.formatTag = Config.fmtYuv420

/-- The four buffers, and OUT's prior values, are in the canonical form of `Memory.wf`. -/
def MemoryInv (s : State) : Prop := s.bufY.wf ∧ s.bufA.wf ∧ s.bufB.wf ∧ s.bufOut.wf ∧ s.outBefore.wf

/-- The OUT word the rules give pixel (i, j) from its own three samples: Y[k], A[uvPos] and B[uvPos + 1]
(41_pixel_walk R135). -/
def pixelValue (s : State) (i j : Nat) : Word :=
  pixelWord (planeByte s .y (lumaCursor s i j)) (planeByte s .a (uvPos s i j)) (planeByte s .b (uvPos s i j + 1))

/-- Two states hold the same frame: the same configuration registers and the same bytes in the three planes. -/
structure SameFrame (s t : State) : Prop where
  width : s.width = t.width
  height : s.height = t.height
  formatTag : s.formatTag = t.formatTag
  yCap : s.yCap = t.yCap
  aCap : s.aCap = t.aCap
  bCap : s.bCap = t.bCap
  outLen : s.outLen = t.outLen
  planes : ∀ p i, planeByte s p i = planeByte t p i

/-- What word `k` of OUT holds once an operation that started at `s0` has passed it, and has not stored the word of a
converted pixel there: 0 below NPIX in a CONVERT_ALLOC (43_output_packer R166), else the value it had (R168). -/
def baseWord (alloc : Bool) (s0 : State) (k : Nat) : Word := if alloc && decide (k < npix s0) then 0 else outWord s0 k

/-- The pixel walk has been at pixel (i, j): its cursor is past it (41_pixel_walk R121, R132, R133). -/
def cursorPassed (s : State) (i j : Nat) : Prop := i < curRow s ∨ i = curRow s ∧ j < curCol s

/-- How far an operation is that was accepted in `s0` and stands at `s`: a CONVERT_ALLOC where `alloc` holds, else a CONVERT. -/
structure OpProgress (alloc : Bool) (s0 s : State) : Prop where
  /-- The frame is the one the operation started with. -/
  frame : SameFrame s0 s
  /-- OUT's prior values are those the operation started with. -/
  prior : ∀ k, priorWord s k = outWord s0 k
  /-- No format mismatch has been reported. -/
  notSkipped : s.phase ≠ .idle → s.status.fmtSkip = false
  /-- In ZFILL: the words below ZIDX are 0, every other word is as it was, and no pixel has been cut off. -/
  zeroFilled : s.phase = .zfill → alloc = true ∧ s.status.trunc = false ∧
    ∀ k, outWord s k = if k < s.zidx.toNat then 0 else outWord s0 k
  /-- In CONV: the tag is the expected one. -/
  format : s.phase = .conv → s0.formatTag = Config.fmtYuv420
  /-- In CONV: each pixel before the cursor has the word of its own samples, unless its own guard trips. -/
  passed : s.phase = .conv → ∀ i j, i < frameH s0 → j < frameW s0 → cursorPassed s i j →
    outWord s (i * frameW s0 + j) =
      if guardTrips s0 i j then baseWord alloc s0 (i * frameW s0 + j) else pixelValue s0 i j
  /-- In CONV: no other word has been stored to by the walk. -/
  ahead : s.phase = .conv → ∀ k, npix s0 ≤ k ∨ curRow s * frameW s0 + curCol s ≤ k → outWord s k = baseWord alloc s0 k
  /-- In CONV: TRUNC is set exactly if the guard of a pixel before the cursor trips. -/
  truncated : s.phase = .conv → (s.status.trunc = true ↔
    ∃ i j, i < frameH s0 ∧ j < frameW s0 ∧ cursorPassed s i j ∧ guardTrips s0 i j = true)

/-- What the operation that was accepted in `s0` leaves in `t` when it ends (41_pixel_walk R131, R135, R136,
43_output_packer R166 to R168). -/
structure OpEnded (alloc : Bool) (s0 t : State) : Prop where
  /-- The end is reported. -/
  reported : t.status.busy = false ∧ t.status.done = true
  /-- FMT_SKIP is set exactly if the tag is another. -/
  skipped : t.status.fmtSkip = true ↔ s0.formatTag ≠ Config.fmtYuv420
  /-- Each pixel of an expected format whose own guard does not trip has the word of its own samples. -/
  converted : ∀ i j, i < frameH s0 → j < frameW s0 → s0.formatTag = Config.fmtYuv420 → guardTrips s0 i j = false →
    outWord t (i * frameW s0 + j) = pixelValue s0 i j
  /-- Each other pixel's word is 0 in a CONVERT_ALLOC, and as it was in a CONVERT. -/
  skippedWords : ∀ i j, i < frameH s0 → j < frameW s0 → s0.formatTag ≠ Config.fmtYuv420 ∨ guardTrips s0 i j = true →
    outWord t (i * frameW s0 + j) = baseWord alloc s0 (i * frameW s0 + j)
  /-- Words from NPIX on are as they were. -/
  beyond : ∀ k, npix s0 ≤ k → outWord t k = outWord s0 k
  /-- TRUNC is set exactly if the format is the expected one and the guard of a pixel of the frame trips. -/
  truncated : t.status.trunc = true ↔ s0.formatTag = Config.fmtYuv420 ∧
    ∃ i j, i < frameH s0 ∧ j < frameW s0 ∧ guardTrips s0 i j = true

/-- A bound on the engine steps that the operation still takes (41_pixel_walk R137). -/
def remaining (s : State) : Nat :=
  match s.phase with
  | .idle => 0
  | .zfill => (npix s - s.zidx.toNat + 1) + (npix s + 1)
  | .conv => npix s - (curRow s * frameW s + curCol s) + 1

/-- The next input asserts the reset input. -/
def resetNext (s : State) : Prop := ∃ i rest, s.inputs = i :: rest ∧ i.reset = true

/-- It is the engine's turn: the host does nothing more, or the interleaving says so (20_memory R60, 41_pixel_walk R120). -/
def engineNext (s : State) : Prop := s.inputs = [] ∨ ∃ rest, s.inputs = { reset := false, act := .engine } :: rest

/-- Every input to come is well formed, and none is a host buffer write that reset does not override. -/
def NonWritingInputs (s : State) : Prop :=
  ∀ i ∈ s.inputs, i.wellFormed = true ∧ (i.reset = true ∨ i.act.writesBuffer = false)

end Sys2Proof.Machine
end

