-- ==== Sys2Proof/Certificates/Slice0/Obligations.lean ====
section
/-! DEFINITION. The statements for the provers, from the numbered rules of spec/. -/

open Sys2Proof Sys2Proof.Machine

/-! ### Encoding -/

/-- 30_encoding R74: the decode procedure, on every CMD word. -/
def Obligations.DecodeFollowsOpcodeMap : Prop :=
  ∀ c : Word, (decodeWord c).toOption =
    if c = 0x00000000 then some .nop
    else if c = 0x00000001 then some .convert
    else if c = 0x00000002 then some .convertAlloc
    else if c = 0x00000003 then some .clearStatus
    else none

/-- 30_encoding R72, R73: decoding and encoding agree, in both directions. -/
def Obligations.DecodeAgreesWithEncode : Prop :=
  ∀ (i : Instr) (c : Word), i.wellFormed = true ∧ decodeWord c = .ok i ↔ c = encode i

/-- 30_encoding R78: which words are illegal because of RSV, and which because of OPC. -/
def Obligations.IllegalWordsAreNamed : Prop :=
  ∀ c : Word,
    (decodeWord c = .error .reservedBitsSet ↔ 0x100 ≤ c.toNat) ∧
    (decodeWord c = .error .unknownOpcode ↔ 0x04 ≤ c.toNat ∧ c.toNat ≤ 0xFF)

/-- 30_encoding R73: the four table words, and words beside them, decode as the map says. -/
def Obligations.TableWordsDecode : Prop :=
  decodeTableWord 32 0b00000000000000000000000000000000 = some .nop ∧
  decodeTableWord 32 0b00000000000000000000000000000001 = some .convert ∧
  decodeTableWord 32 0b00000000000000000000000000000010 = some .convertAlloc ∧
  decodeTableWord 32 0b00000000000000000000000000000011 = some .clearStatus ∧
  decodeTableWord 32 0x00000004 = none ∧ decodeTableWord 32 0x00000100 = none ∧ decodeTableWord 32 0x80000001 = none

/-! ### A step runs the decoded command -/

/-- 40_commands R102: when the next input is a CMD write of a word that decodes to `i`, the step is exec of `i` on the
state that has the rest of the inputs. -/
def Obligations.StepRunsDecodedCommand : Prop :=
  ∀ (s : State) (rest : List Input) (c : Word) (i : Instr), s.inputs = Script.wr .cmd c :: rest → i.wellFormed = true →
    decodeWord c = .ok i → step s = exec i { s with inputs := rest }

/-- How a command reaches the machine (log entry 8): after withFetchWord, the next step runs exactly the word's command. -/
def Obligations.FetchedCommandRuns : Prop :=
  ∀ (s : State) (i : Instr), step (s.withFetchWord 32 (encode i).toNat) = exec i s

/-- 40_commands R108: an illegal word sets ERR = 1 and has no other effect, in either BUSY state. -/
def Obligations.IllegalCommandSetsOnlyErr : Prop :=
  ∀ (s : State) (rest : List Input) (c : Word), s.inputs = Script.wr .cmd c :: rest → (decodeWord c).toOption = none →
    step s = .next { s with inputs := rest, status := { s.status with err := 1 } }

/-! ### The commands -/

/-- 40_commands R107: the word 0x00000000 is NOP, NOP changes nothing in either BUSY state, and a word with OPC = 0 and
RSV ≠ 0 is not NOP. -/
def Obligations.NopChangesNothing : Prop :=
  decodeWord 0x00000000 = .ok .nop ∧ (∀ s : State, exec .nop s = .next s) ∧
  (∀ c : Word, opcField c = 0 → rsvField c ≠ 0 → (decodeWord c).toOption = none)

/-- 40_commands R103: an accepted CONVERT with the expected tag starts the pixel walk. That `outBefore` takes OUT's contents
is the model's own bookkeeping for a reset (log entry 24). -/
def Obligations.ConvertStartsPixelWalk : Prop :=
  ∀ s : State, s.status.busy = false → npix s ≤ s.outLen.toNat → s.formatTag = Config.fmtYuv420 →
    exec .convert s = .next { s with
      phase := .conv, row := 0, col := 0, outBefore := s.bufOut
      status := { busy := true, done := false, fmtSkip := false, trunc := false, err := 0 } }

/-- 40_commands R103: an accepted CONVERT with any other tag completes at once and leaves OUT unmodified. -/
def Obligations.ConvertSkipsOtherFormat : Prop :=
  ∀ s : State, s.status.busy = false → npix s ≤ s.outLen.toNat → s.formatTag ≠ Config.fmtYuv420 →
    exec .convert s = .next { s with
      status := { busy := false, done := true, fmtSkip := true, trunc := false, err := 0 } }

/-- 40_commands R104: an accepted CONVERT_ALLOC starts the zero-fill, whatever the tag. That `outBefore` takes OUT's
contents is the model's own bookkeeping for a reset (log entry 24). -/
def Obligations.ConvertAllocStartsZeroFill : Prop :=
  ∀ s : State, s.status.busy = false → npix s ≤ s.outLen.toNat →
    exec .convertAlloc s = .next { s with
      phase := .zfill, zidx := 0, outBefore := s.bufOut
      status := { busy := true, done := false, fmtSkip := false, trunc := false, err := 0 } }

/-- 40_commands R106: OUT_TOO_SMALL. NPIX is at most 65535², so the comparison never wraps; nothing but STATUS changes,
and the tag is not examined. -/
def Obligations.ShortOutputIsRejected : Prop :=
  (∀ s : State, npix s = s.width.toNat * s.height.toNat ∧ npix s ≤ 4294836225) ∧
  ∀ (s : State) (i : Instr), i = .convert ∨ i = .convertAlloc → s.status.busy = false → s.outLen.toNat < npix s →
    exec i s = .next { s with
      status := { busy := false, done := true, fmtSkip := false, trunc := false, err := 3 } }

/-- 40_commands R105: the word 0x00000003 is CLEAR_STATUS, which clears the sticky fields; while BUSY = 1 it is rejected
and clears nothing. -/
def Obligations.ClearStatusClearsStickyFields : Prop :=
  decodeWord 0x00000003 = .ok .clearStatus ∧ ∀ s : State,
    (s.status.busy = false → exec .clearStatus s = .next { s with
      status := { busy := false, done := false, fmtSkip := false, trunc := false, err := 0 } }) ∧
    (s.status.busy = true → exec .clearStatus s = .next { s with status := { s.status with err := 2 } })

/-- 40_commands R109: while BUSY = 1, CONVERT, CONVERT_ALLOC and CLEAR_STATUS set ERR = 2 and nothing else, and so does
a configuration register write. -/
def Obligations.BusyBlockRejects : Prop :=
  ∀ (s : State) (rest : List Input), s.status.busy = true →
    (∀ (c : Word) (i : Instr), s.inputs = Script.wr .cmd c :: rest → decodeWord c = .ok i → i ≠ .nop →
      step s = .next { s with inputs := rest, status := { s.status with err := 2 } }) ∧
    (∀ (r : Reg) (d : Word), s.inputs = Script.wr r d :: rest → r ≠ .cmd → r ≠ .status →
      step s = .next { s with inputs := rest, status := { s.status with err := 2 } })

/-- The frame of the four commands: no buffer byte, no configuration register and nothing of the host's side changes;
NOP and CLEAR_STATUS leave the engine's state, CONVERT leaves ZIDX and CONVERT_ALLOC leaves ROW and COL; NOP leaves
STATUS, CLEAR_STATUS leaves BUSY, and no command clears BUSY. Of the model's own fields (log entry 24) no command changes
`resetCount`, and NOP and CLEAR_STATUS leave `outBefore`. -/
def Obligations.CommandsLeaveBuffersAndConfiguration : Prop :=
  ∀ (i : Instr) (s t : State), exec i s = .next t →
    (∀ p k, planeByte t p k = planeByte s p k) ∧ (∀ a, outByte t a = outByte s a) ∧
    (t.width = s.width ∧ t.height = s.height ∧ t.formatTag = s.formatTag ∧ t.yCap = s.yCap ∧ t.aCap = s.aCap ∧
      t.bCap = s.bCap ∧ t.outLen = s.outLen) ∧
    (t.inputs = s.inputs ∧ t.observed = s.observed ∧ t.resetCount = s.resetCount) ∧
    (i = .nop ∨ i = .clearStatus →
      t.phase = s.phase ∧ t.row = s.row ∧ t.col = s.col ∧ t.zidx = s.zidx ∧ t.outBefore = s.outBefore) ∧
    (i = .convert → t.zidx = s.zidx) ∧ (i = .convertAlloc → t.row = s.row ∧ t.col = s.col) ∧
    (i = .nop → t.status = s.status) ∧ (i = .clearStatus → t.status.busy = s.status.busy) ∧
    (s.status.busy = true → t.status.busy = true)

/-! ### Registers -/

/-- 30_encoding R76: the fields of the STATUS word. -/
def Obligations.StatusWordLayout : Prop :=
  ∀ st : Status,
    st.word.extractLsb' 8 24 = 0 ∧ st.word.extractLsb' 4 4 = st.err ∧ st.word.getLsbD 3 = st.trunc ∧
    st.word.getLsbD 2 = st.fmtSkip ∧ st.word.getLsbD 1 = st.done ∧ st.word.getLsbD 0 = st.busy

/-- 40_commands R100: every configuration register write at BUSY = 0, and a write to STATUS, which does nothing in either BUSY
state (10_state R30). -/
def Obligations.RegisterWritesApplyWhenIdle : Prop :=
  (∀ (s : State) (rest : List Input) (d : Word), s.status.busy = false →
    step { s with inputs := Script.wr .width d :: rest } =
      .next { s with inputs := rest, width := BitVec.ofNat 16 (d.toNat % 65536) } ∧
    step { s with inputs := Script.wr .height d :: rest } =
      .next { s with inputs := rest, height := BitVec.ofNat 16 (d.toNat % 65536) } ∧
    step { s with inputs := Script.wr .formatTag d :: rest } = .next { s with inputs := rest, formatTag := d } ∧
    step { s with inputs := Script.wr .yCap d :: rest } = .next { s with inputs := rest, yCap := d } ∧
    step { s with inputs := Script.wr .aCap d :: rest } = .next { s with inputs := rest, aCap := d } ∧
    step { s with inputs := Script.wr .bCap d :: rest } = .next { s with inputs := rest, bCap := d } ∧
    step { s with inputs := Script.wr .outLen d :: rest } = .next { s with inputs := rest, outLen := d }) ∧
  (∀ (s : State) (rest : List Input) (d : Word),
    step { s with inputs := Script.wr .status d :: rest } = .next { s with inputs := rest })

/-- 10_state R39: the seven reserved offsets read 0 and ignore writes, in every state. -/
def Obligations.ReservedOffsetsReadZero : Prop :=
  ∀ (s : State) (rest : List Input) (off : BitVec 6) (d : Word),
    off ∈ ([0x24, 0x28, 0x2C, 0x30, 0x34, 0x38, 0x3C] : List (BitVec 6)) →
    step { s with inputs := Script.plain (.regRead 32 off) :: rest } =
      .next { s with inputs := rest, observed := .reg off 0 :: s.observed } ∧
    step { s with inputs := Script.plain (.regWrite 32 off d) :: rest } = .next { s with inputs := rest }

/-- 40_commands R101: what a register read returns, and that it changes nothing of the block, in either BUSY state. -/
def Obligations.RegisterReadsReturnStoredValues : Prop :=
  ∀ (s : State) (rest : List Input) (off : BitVec 6), off.toNat % 4 = 0 → ∃ v : Word,
    step { s with inputs := Script.plain (.regRead 32 off) :: rest } =
      .next { s with inputs := rest, observed := .reg off v :: s.observed } ∧
    v.toNat =
      if off = 0x04 then s.status.word.toNat
      else if off = 0x08 then s.width.toNat
      else if off = 0x0C then s.height.toNat
      else if off = 0x10 then s.formatTag.toNat
      else if off = 0x14 then s.yCap.toNat
      else if off = 0x18 then s.aCap.toNat
      else if off = 0x1C then s.bCap.toNat
      else if off = 0x20 then s.outLen.toNat
      else 0

/-- 20_memory R56: a register access of another width, or at another offset, is refused. -/
def Obligations.OtherRegisterAccessesAreRefused : Prop :=
  ∀ (s : State) (rest : List Input) (bits : Nat) (off : BitVec 6) (d : Word), bits ≠ 32 ∨ off.toNat % 4 ≠ 0 →
    step { s with inputs := Script.plain (.regWrite bits off d) :: rest } = .refused (.registerAccess bits off) ∧
    step { s with inputs := Script.plain (.regRead bits off) :: rest } = .refused (.registerAccess bits off)

/-! ### Buffers -/

/-- 20_memory R66, 70_reset_and_hazards R210: a host buffer write while BUSY = 1 is refused. -/
def Obligations.BufferWritesWhileBusyAreRefused : Prop :=
  ∀ (s : State) (rest : List Input), s.status.busy = true →
    (∀ p i v, step { s with inputs := Script.plain (.planeWrite p i v) :: rest } = .refused .bufferWriteWhileBusy) ∧
    (∀ k v, step { s with inputs := Script.plain (.outWrite k v) :: rest } = .refused .bufferWriteWhileBusy)

/-- 20_memory R50 to R52: at BUSY = 0 a host plane write stores one byte of one plane, and no other byte and no
register changes. That it does so at every index, also at or past the plane's capacity register, where these rules give
no index, is the model's reading (log entry 9, DEDUCED, unsafe there). That the other planes keep their bytes rests on
the four separate buffers (log entry 14, DEDUCED). -/
def Obligations.PlaneWriteStoresOneByte : Prop :=
  ∀ (s : State) (rest : List Input) (p : Plane) (i : Word) (v : Byte), s.status.busy = false →
    ∃ t, step { s with inputs := Script.plain (.planeWrite p i v) :: rest } = .next t ∧
      planeByte t p i.toNat = v ∧ (∀ q j, ¬(q = p ∧ j = i.toNat) → planeByte t q j = planeByte s q j) ∧
      t = { s with inputs := rest, bufY := t.bufY, bufA := t.bufA, bufB := t.bufB }

/-- 20_memory R53, R55: at BUSY = 0 a host write of an OUT word stores its four bytes, little-endian, and no other byte
and no register changes. That it does so at every index, also at or past OUT_LEN, where R53 gives no index, is the
model's reading (log entry 9, DEDUCED, unsafe there); that no plane changes rests on the four separate buffers (log
entry 14, DEDUCED). -/
def Obligations.OutWriteStoresOneWord : Prop :=
  ∀ (s : State) (rest : List Input) (k v : Word), s.status.busy = false →
    ∃ t, step { s with inputs := Script.plain (.outWrite k v) :: rest } = .next t ∧
      outWord t k.toNat = v ∧
      (∀ j : Fin 4, (outByte t (4 * k.toNat + j.val)).toNat = v.toNat / 2 ^ (8 * j.val) % 256) ∧
      (∀ a, a < 4 * k.toNat ∨ 4 * k.toNat + 4 ≤ a → outByte t a = outByte s a) ∧
      t = { s with inputs := rest, bufOut := t.bufOut }

/-- 20_memory R55, R66: host reads of buffers return the stored bytes, an OUT word seen as four bytes is little-endian,
and a read has no effect, in either BUSY state. That a read answers at every index, also at or past the capacity
registers, where R50 to R53 give no index, is the model's reading (log entry 9, DEDUCED, unsafe there). -/
def Obligations.BufferReadsReturnStoredBytes : Prop :=
  ∀ (s : State) (rest : List Input),
    (∀ p i, step { s with inputs := Script.plain (.planeRead p i) :: rest } =
      .next { s with inputs := rest, observed := .plane p i (planeByte s p i.toNat) :: s.observed }) ∧
    (∀ k, step { s with inputs := Script.plain (.outRead k) :: rest } =
      .next { s with inputs := rest, observed := .out k (outWord s k.toNat) :: s.observed }) ∧
    (∀ (k : Word) (j : Fin 4), ∃ b : Byte, step { s with inputs := Script.plain (.outByteRead k j) :: rest } =
        .next { s with inputs := rest, observed := .outByte k j b :: s.observed } ∧
      b.toNat = (outWord s k.toNat).toNat / 2 ^ (8 * j.val) % 256)

/-! ### Transform, saturation and packer -/

/-- 42_color_transform R143 to R145: the raw channels by their equations, and their ranges. -/
def Obligations.RawChannelsStayInRange : Prop :=
  ∀ y1 ca cb : Byte,
    transform y1 (bias ca) (bias cb) =
      { red := 1192 * (y1.toNat : Int) + 1634 * ((cb.toNat : Int) - 128)
        green := 1192 * (y1.toNat : Int) - 833 * ((cb.toNat : Int) - 128) - 400 * ((ca.toNat : Int) - 128)
        blue := 1192 * (y1.toNat : Int) + 2066 * ((ca.toNat : Int) - 128) } ∧
    (-209152 ≤ (transform y1 (bias ca) (bias cb)).red ∧ (transform y1 (bias ca) (bias cb)).red ≤ 511478) ∧
    (-156591 ≤ (transform y1 (bias ca) (bias cb)).green ∧ (transform y1 (bias ca) (bias cb)).green ≤ 461784) ∧
    (-264448 ≤ (transform y1 (bias ca) (bias cb)).blue ∧ (transform y1 (bias ca) (bias cb)).blue ≤ 566342)

/-- 43_output_packer R161: the bit-field form of the packer, for saturated channels. -/
def Obligations.PackSelectsChannelBits : Prop :=
  ∀ rs gs bs : BitVec 18,
    pack rs.toNat gs.toNat bs.toNat =
      (0 : BitVec 8) ++ (rs.extractLsb' 10 8 ++ (gs.extractLsb' 10 8 ++ bs.extractLsb' 10 8))

/-- 42_color_transform R148: each channel of a pixel word is floor(clamp(0, 262143, x) / 1024) for its raw value x, the
raw values being those of R142 to R145, and lies in [0, 255]; bits 31:24 are 0 (43_output_packer R165). -/
def Obligations.PixelWordChannels : Prop :=
  ∀ y1 ca cb : Byte, ∃ r g b : Nat,
    (r : Int) = clamp 0 262143 (1192 * (y1.toNat : Int) + 1634 * ((cb.toNat : Int) - 128)) / 1024 ∧
    (g : Int) = clamp 0 262143
      (1192 * (y1.toNat : Int) - 833 * ((cb.toNat : Int) - 128) - 400 * ((ca.toNat : Int) - 128)) / 1024 ∧
    (b : Int) = clamp 0 262143 (1192 * (y1.toNat : Int) + 2066 * ((ca.toNat : Int) - 128)) / 1024 ∧
    r ≤ 255 ∧ g ≤ 255 ∧ b ≤ 255 ∧ (pixelWord y1 ca cb).toNat = r * 65536 + g * 256 + b

/-- 42_color_transform R149: for u = v = 0, rr = gr = br = 1192 · y1 and R = G = B = min(255, floor(1192 · y1 / 1024)). -/
def Obligations.AchromaticPixelIsGrey : Prop :=
  bias 0x80 = 0 ∧ ∀ y1 : Byte,
    transform y1 0 0 = { red := 1192 * y1.toNat, green := 1192 * y1.toNat, blue := 1192 * y1.toNat } ∧
    (pixelWord y1 0x80 0x80).toNat = min 255 (1192 * y1.toNat / 1024) * 0x010101

/-- 42_color_transform R150: monotonicity of the raw channels and of the saturated, de-scaled ones. -/
def Obligations.ChannelsAreMonotone : Prop :=
  ∀ (y y' : Byte) (u u' v v' : Int), y.toNat ≤ y'.toNat → u ≤ u' → v ≤ v' →
    ((transform y u v).red ≤ (transform y' u' v').red ∧ (transform y u v).blue ≤ (transform y' u' v').blue ∧
      (transform y u' v').green ≤ (transform y' u v).green) ∧
    (saturate (transform y u v).red / 1024 ≤ saturate (transform y' u' v').red / 1024 ∧
      saturate (transform y u v).blue / 1024 ≤ saturate (transform y' u' v').blue / 1024 ∧
      saturate (transform y u' v').green / 1024 ≤ saturate (transform y' u v).green / 1024)

/-- 42_color_transform R151: the four corners with y1 = 255, raw and packed. -/
def Obligations.ExtremesSaturate : Prop :=
  (transform 255 (-128) (-128) = { red := 94808, green := 461784, blue := 39512 } ∧ pixelWord 255 0x00 0x00 = 0x005CFF26) ∧
  (transform 255 127 127 = { red := 511478, green := 147369, blue := 566342 } ∧ pixelWord 255 0xFF 0xFF = 0x00FF8FFF) ∧
  (transform 255 (-128) 127 = { red := 511478, green := 249369, blue := 39512 } ∧ pixelWord 255 0x00 0xFF = 0x00FFF326) ∧
  (transform 255 127 (-128) = { red := 94808, green := 359784, blue := 566342 } ∧ pixelWord 255 0xFF 0x00 = 0x005CFFFF)

/-! ### The engine -/

/-- 60_exceptions R196, 41_pixel_walk R120: an idle block does nothing. That a turn of the engine is then a stutter (log
entry 5), and that with no input left the turn is the engine's (log entry 3), is the model's form. -/
def Obligations.IdleBlockDoesNothing : Prop :=
  ∀ s : State, s.phase = .idle →
    (s.inputs = [] → step s = .next s) ∧
    (∀ rest, s.inputs = Script.engineTurn :: rest → step s = .next { s with inputs := rest })

/-- 41_pixel_walk R120, 20_memory R60: outside IDLE a turn of the engine is its one enabled step. The rest is the model's
form, which those rules do not say: with no input left every step is the engine's (log entry 3, DESIGN CHOICE), and in
IDLE, where R120 gives the engine no step, its turn is `engineStep` too, a stutter (log entry 5, DEDUCED). -/
def Obligations.EngineTurnRunsEngineStep : Prop :=
  ∀ s : State,
    (∀ rest, step { s with inputs := Script.engineTurn :: rest } = engineStep { s with inputs := rest }) ∧
    (s.inputs = [] → step s = engineStep s)

/-- 41_pixel_walk R130: every read the engine issues is inside its buffer's declared capacity and every write inside
OUT_LEN, so no step faults where the sequencer's invariants hold. -/
def Obligations.EngineStaysInBounds : Prop :=
  ∀ s : State, SequencerInv s →
    (∀ f, step s ≠ .fault f) ∧ (∃ t, engineStep s = .next t) ∧
    (s.phase = .conv → curRow s ≠ frameH s → frameW s ≠ 0 → guardTrips s (curRow s) (curCol s) = false →
      lumaCursor s (curRow s) (curCol s) < s.yCap.toNat ∧ uvPos s (curRow s) (curCol s) < s.aCap.toNat ∧
      uvPos s (curRow s) (curCol s) + 1 < s.bCap.toNat ∧ lumaCursor s (curRow s) (curCol s) < npix s ∧
      npix s ≤ s.outLen.toNat)

/-- 41_pixel_walk R128, R134: where the guard trips, TRUNC is set, the row is abandoned, and nothing else changes; a
capacity of 0 for Y, or of at most 1 for the chroma planes, trips it at every pixel. -/
def Obligations.GuardTripAbandonsRow : Prop :=
  (∀ s : State, s.phase = .conv → curRow s ≠ frameH s → frameW s ≠ 0 →
    (s.row.toNat / 2 * s.width.toNat + 2 * (s.col.toNat / 2) + 1 ≥ min s.aCap.toNat s.bCap.toNat ∨
      s.row.toNat * s.width.toNat + s.col.toNat ≥ s.yCap.toNat) →
    engineStep s = .next { s with status := { s.status with trunc := true }, row := s.row + 1, col := 0 }) ∧
  (∀ (s : State) (i j : Nat), s.yCap = 0 ∨ s.aCap.toNat ≤ 1 ∨ s.bCap.toNat ≤ 1 → guardTrips s i j = true)

/-- 41_pixel_walk R132, R133, 43_output_packer R163: where the guard does not trip, the pixel's word is stored at its own
luma cursor, the cursor advances by a column or to the next row, and nothing else changes. -/
def Obligations.ConvertedPixelIsStoredAtItsCursor : Prop :=
  ∀ s : State, SequencerInv s → s.phase = .conv → curRow s ≠ frameH s → frameW s ≠ 0 →
    guardTrips s (curRow s) (curCol s) = false →
    ∃ t, engineStep s = .next t ∧
      outWord t (s.row.toNat * s.width.toNat + s.col.toNat) =
        pixelWord (planeByte s .y (s.row.toNat * s.width.toNat + s.col.toNat))
          (planeByte s .a (s.row.toNat / 2 * s.width.toNat + 2 * (s.col.toNat / 2)))
          (planeByte s .b (s.row.toNat / 2 * s.width.toNat + 2 * (s.col.toNat / 2) + 1)) ∧
      (∀ a, a < 4 * lumaCursor s (curRow s) (curCol s) ∨ 4 * lumaCursor s (curRow s) (curCol s) + 4 ≤ a →
        outByte t a = outByte s a) ∧
      (s.col.toNat + 1 < s.width.toNat → t.col.toNat = s.col.toNat + 1 ∧ t.row = s.row) ∧
      (s.col.toNat + 1 = s.width.toNat → t.col = 0 ∧ t.row.toNat = s.row.toNat + 1) ∧
      t = { s with bufOut := t.bufOut, row := t.row, col := t.col }

/-- 41_pixel_walk R136: the conversion step completes the operation when ROW = H, or at once when W = 0 or H = 0. -/
def Obligations.WalkCompletes : Prop :=
  ∀ s : State, s.phase = .conv → s.row.toNat = s.height.toNat ∨ s.width = 0 →
    engineStep s = .next { s with
      phase := .idle, row := 0, col := 0, zidx := 0, status := { s.status with busy := false, done := true } }

/-- 43_output_packer R166, R167: a zero-fill step zeroes one word, or ends the phase by the format check. -/
def Obligations.ZeroFillStepZeroesOneWord : Prop :=
  ∀ s : State, SequencerInv s → s.phase = .zfill →
    (s.zidx.toNat < npix s → ∃ t, engineStep s = .next t ∧ outWord t s.zidx.toNat = 0 ∧
      (∀ a, a < 4 * s.zidx.toNat ∨ 4 * s.zidx.toNat + 4 ≤ a → outByte t a = outByte s a) ∧
      t.zidx.toNat = s.zidx.toNat + 1 ∧ t = { s with bufOut := t.bufOut, zidx := t.zidx }) ∧
    (npix s ≤ s.zidx.toNat → s.formatTag = Config.fmtYuv420 →
      engineStep s = .next { s with phase := .conv, row := 0, col := 0 }) ∧
    (npix s ≤ s.zidx.toNat → s.formatTag ≠ Config.fmtYuv420 →
      engineStep s = .next { s with
        phase := .idle, row := 0, col := 0, zidx := 0
        status := { s.status with busy := false, done := true, fmtSkip := true } })

/-- 41_pixel_walk R138: truncation of a row and what it means for the rows after it. -/
def Obligations.TruncationOfLaterRows : Prop :=
  ∀ (s : State) (i j : Nat), j < frameW s →
    (lumaCursor s i j ≥ s.yCap.toNat → ∀ i' > i, guardTrips s i' 0 = true) ∧
    (uvPos s i j + 1 ≥ ccap s → i % 2 = 0 → (∀ j' ≥ j, guardTrips s (i + 1) j' = true) ∧
      ((∀ j' < j, guardTrips s i j' = false) → ∀ j' < j, lumaCursor s (i + 1) j' < s.yCap.toNat →
        guardTrips s (i + 1) j' = false)) ∧
    (uvPos s i j + 1 ≥ ccap s → ∀ i', i + 2 ≤ i' ∨ (i % 2 = 1 ∧ i' = i + 1) → guardTrips s i' 0 = true)

/-- 41_pixel_walk R139: no guard trips anywhere in the frame exactly when both capacities reach the last pixel; for even
W and H the chroma condition is CCAP ≥ W · H / 2. -/
def Obligations.FullConversionCondition : Prop :=
  ∀ s : State, 0 < npix s →
    ((∀ i j, i < frameH s → j < frameW s → guardTrips s i j = false) ↔
      npix s ≤ s.yCap.toNat ∧ (frameH s - 1) / 2 * frameW s + 2 * ((frameW s - 1) / 2) + 2 ≤ ccap s) ∧
    (frameW s % 2 = 0 → frameH s % 2 = 0 →
      (frameH s - 1) / 2 * frameW s + 2 * ((frameW s - 1) / 2) + 2 = frameW s * frameH s / 2)

/-! ### Whole operations -/

/-- 41_pixel_walk R137: every operation completes with no further host action. From wherever the conversion phase stands it
ends within NPIX + 1 steps. From wherever the zero-fill phase stands it lasts exactly NPIX - ZIDX + 1 steps more (NPIX + 1
from its start), and the operation ends within NPIX + 1 steps after it. -/
def Obligations.OperationsTerminate : Prop :=
  ∀ s : State, SequencerInv s → s.inputs = [] →
    (s.phase = .conv → ∃ n t, n ≤ npix s + 1 ∧ run n s = .next t ∧ t.phase = .idle ∧ t.status.busy = false ∧
      t.status.done = true) ∧
    (s.phase = .zfill →
      (∀ n, n ≤ npix s - s.zidx.toNat → ∃ t, run n s = .next t ∧ t.phase = .zfill) ∧
      (∃ t, run (npix s - s.zidx.toNat + 1) s = .next t ∧ t.phase ≠ .zfill) ∧
      (∃ n t, n ≤ (npix s - s.zidx.toNat + 1) + (npix s + 1) ∧ run n s = .next t ∧ t.phase = .idle ∧
        t.status.busy = false ∧ t.status.done = true))

/-- 43_output_packer R166, R167: with no further host action the zero-fill phase zeroes exactly words 0 to NPIX - 1, in
ascending order, and then ends by the format check. For every interleaving: `OperationProgressKept`. -/
def Obligations.ZeroFillPhase : Prop :=
  ∀ s : State, SequencerInv s → s.phase = .zfill → s.zidx = 0 → s.inputs = [] →
    (∀ n, n ≤ npix s → ∃ t, run n s = .next t ∧ t.phase = .zfill ∧ t.zidx.toNat = n ∧
      (∀ k, outWord t k = if k < n then 0 else outWord s k)) ∧
    (∃ t, run (npix s + 1) s = .next t ∧ (∀ k, outWord t k = if k < npix s then 0 else outWord s k) ∧
      t.phase = (if s.formatTag = Config.fmtYuv420 then .conv else .idle) ∧
      (s.formatTag ≠ Config.fmtYuv420 → t.status = { s.status with busy := false, done := true, fmtSkip := true }))

/-- 41_pixel_walk R131, R135, 43_output_packer R168: with no further host action a whole conversion writes exactly the pixels whose own guard does not trip, each
with the word of its own samples at its own row-major index; every other word keeps its prior value; TRUNC is set
exactly when some pixel of the frame trips. For every interleaving: `OperationProgressKept` and
`OperationEndsWithItsImage`. -/
def Obligations.ConversionWritesExactlyUnguardedPixels : Prop :=
  ∀ (s t : State) (n : Nat), SequencerInv s → s.phase = .conv → s.row = 0 → s.col = 0 → s.inputs = [] →
    run n s = .next t → t.phase = .idle →
    (∀ i j, i < frameH s → j < frameW s →
      outWord t (i * frameW s + j) =
        if guardTrips s i j then outWord s (i * frameW s + j) else pixelValue s i j) ∧
    (∀ k, npix s ≤ k → outWord t k = outWord s k) ∧
    (t.status.trunc = true ↔ s.status.trunc = true ∨ ∃ i j, i < frameH s ∧ j < frameW s ∧ guardTrips s i j = true)

/-- From 42_color_transform R153, which has no limit to runs without host action: two operations with identical registers
and planes, both run with no further host action (the empty list of log entry 3), give identical OUT words, with
CONVERT_ALLOC for every word 0 to NPIX - 1 whatever OUT held before, with CONVERT for every converted word. For every
interleaving: `OperationEndsWithItsImage`, whose image depends on the start state's registers, planes and OUT alone. -/
def Obligations.OutputDependsOnlyOnFrame : Prop :=
  ∀ (s t s' t' : State) (m n : Nat), SequencerInv s → SequencerInv t → SameFrame s t → s.inputs = [] → t.inputs = [] →
    run m s = .next s' → s'.phase = .idle → run n t = .next t' → t'.phase = .idle →
    (s.phase = .zfill → s.zidx = 0 → t.phase = .zfill → t.zidx = 0 → ∀ k, k < npix s → outWord s' k = outWord t' k) ∧
    (s.phase = .conv → s.row = 0 → s.col = 0 → t.phase = .conv → t.row = 0 → t.col = 0 →
      ∀ i j, i < frameH s → j < frameW s → guardTrips s i j = false →
        outWord s' (i * frameW s + j) = outWord t' (i * frameW s + j))

/-- 30_encoding R81: POLL ends, after which the operation has completed and the last value read has BUSY = 0. The polled
interleaving is the model's (log entry 6). -/
def Obligations.PollEnds : Prop :=
  ∀ s : State, SequencerInv s → s.inputs = [Script.poll] →
    ∃ n t, run n s = .next t ∧ t.inputs = [] ∧ t.phase = .idle ∧
      ∃ older, t.observed = .reg 0x04 t.status.word :: older ∧ t.status.busy = false

/-- 20_memory R56, R66, 41_pixel_walk R120, R130: a run from a state that meets the sequencer's invariants never stops
if every input is well formed and none writes a buffer, however many steps it takes. Runs that write a buffer at
BUSY = 0 are not in it: `StepStopsExactlyOnBrokenDuties` says of every step when it stops. Three parts rest on the model
and not on these rules: host buffer reads at or past the capacity registers do not stop (log entry 9, DEDUCED, unsafe
there); an access met by a reset is lost, so it may be ill formed (70_reset_and_hazards R200 gives only the precedence;
log entry 7, DESIGN CHOICE); and with no input left the engine goes on (log entry 3, DESIGN CHOICE). -/
def Obligations.RunsWithoutBufferWritesNeverStop : Prop :=
  ∀ s : State, SequencerInv s → NonWritingInputs s → ∀ n, SafeRun n s

/-! ### Operations under every interleaving -/

/-- 40_commands R103, R104: an operation that is accepted stands at its start, whatever the tag for CONVERT_ALLOC. That its
progress holds OUT's prior values, `priorWord`, is the model's own bookkeeping in `outBefore` (log entry 24, DESIGN CHOICE). -/
def Obligations.OperationStartsInProgress : Prop :=
  ∀ s : State, s.status.busy = false → npix s ≤ s.outLen.toNat →
    (s.formatTag = Config.fmtYuv420 →
      ∃ t, exec .convert s = .next t ∧ t.phase = .conv ∧ SequencerInv t ∧ OpProgress false s t) ∧
    (∃ t, exec .convertAlloc s = .next t ∧ t.phase = .zfill ∧ SequencerInv t ∧ OpProgress true s t)

/-- 41_pixel_walk R131, R135, 43_output_packer R163, R166, R168: relative to the state an operation was accepted in, the words
below ZIDX are zero, the pixels before the cursor have their own words or their base values, and all other words their
base values, after every step that is no reset, whatever the host does in between (20_memory R60, 93_implementation_defined
I13). Host buffer writes need no exception: while BUSY = 1 they answer no next state. That the progress also keeps the
prior values in `outBefore` is the model's own bookkeeping (log entry 24). -/
def Obligations.OperationProgressKept : Prop :=
  ∀ (alloc : Bool) (s0 s t : State), SequencerInv s → OpProgress alloc s0 s → s.phase ≠ .idle → ¬ resetNext s →
    step s = .next t → t.phase ≠ .idle → SequencerInv t ∧ OpProgress alloc s0 t

/-- 41_pixel_walk R131, R135, R136, 43_output_packer R166 to R168: the step that ends an operation, under whatever
interleaving, leaves the image the operation is to leave, and reports it in STATUS. -/
def Obligations.OperationEndsWithItsImage : Prop :=
  ∀ (alloc : Bool) (s0 s t : State), SequencerInv s → OpProgress alloc s0 s → s.phase ≠ .idle → ¬ resetNext s →
    step s = .next t → t.phase = .idle → SameFrame s0 t ∧ OpEnded alloc s0 t

/-- 41_pixel_walk R137, for every interleaving: an operation has at most 2 NPIX + 2 engine steps left, each engine step
takes at least one from what is left, no host action adds any, and when none is left the operation has ended. That a step
with no input left is the engine's is the model's form (log entry 3, DESIGN CHOICE). -/
def Obligations.EngineStepsShrinkTheRemainder : Prop :=
  ∀ s t : State, SequencerInv s → s.phase ≠ .idle → ¬ resetNext s → step s = .next t →
    remaining s ≤ 2 * npix s + 2 ∧ (s.phase = .conv → remaining s ≤ npix s + 1) ∧
    (engineNext s → remaining t < remaining s) ∧ (¬ engineNext s → remaining t = remaining s ∧ t.phase = s.phase) ∧
    (remaining t = 0 ↔ t.phase = .idle) ∧ (t.phase = .idle → t.status.busy = false ∧ t.status.done = true)

/-- 20_memory R56, R66, 41_pixel_walk R130, 70_reset_and_hazards R200: where the sequencer's invariants hold a step answers
a next state, except for a register access that is not well formed and a host buffer write while BUSY = 1, neither of them
met by a reset. Three parts of 'exactly' rest on the model and not on these rules: host buffer reads and writes at or past
the capacity registers answer a next state (log entry 9, DEDUCED, unsafe there); the access a reset meets is lost (R200
gives only the precedence; log entry 7, DESIGN CHOICE); and with no input left the step is the engine's (log entry 3, DESIGN
CHOICE). -/
def Obligations.StepStopsExactlyOnBrokenDuties : Prop :=
  ∀ s : State, SequencerInv s →
    ((∃ t, step s = .next t) ↔
      ∀ i rest, s.inputs = i :: rest →
        i.reset = true ∨ i.act.wellFormed = true ∧ (i.act.writesBuffer = true → s.status.busy = false))

/-- 20_memory R56, R66, 41_pixel_walk R130, 70_reset_and_hazards R200: the sequencer's invariants together with inputs that
are well formed and write no buffer let the step answer a next state, and are kept by it. Some parts rest on the model and
not on these rules: host buffer reads at or past the capacity registers answer a next state (log entry 9, DEDUCED, unsafe
there); an ill-formed access met by a reset is lost (R200 gives only the precedence; log entry 7, DESIGN CHOICE); with no
input left the step is the engine's (log entry 3, DESIGN CHOICE); and a poll puts back an engine turn and itself (log
entry 6, DESIGN CHOICE). -/
def Obligations.NonWritingInputsKeepRunning : Prop :=
  ∀ s : State, SequencerInv s → NonWritingInputs s → ∃ t, step s = .next t ∧ SequencerInv t ∧ NonWritingInputs t

/-! ### Whole-machine rules -/

/-- 10_state R46: (a) to (d) are kept by every step, and (e) the configuration registers do not change while
PHASE ≠ IDLE, except by a reset, which also makes PHASE IDLE. -/
def Obligations.SequencerInvariantsKept : Prop :=
  ∀ s t : State, SequencerInv s → step s = .next t →
    SequencerInv t ∧
    (s.phase ≠ .idle → (∀ a rest, s.inputs ≠ { reset := true, act := a } :: rest) →
      t.width = s.width ∧ t.height = s.height ∧ t.formatTag = s.formatTag ∧ t.yCap = s.yCap ∧ t.aCap = s.aCap ∧
      t.bCap = s.bCap ∧ t.outLen = s.outLen)

/-- 10_state R22: ROW never exceeds HEIGHT, COL never exceeds WIDTH - 1 (or 0) and ZIDX never exceeds WIDTH · HEIGHT. -/
def Obligations.CursorsStayInFrame : Prop :=
  ∀ s t : State, SequencerInv s → CursorInv s → step s = .next t → CursorInv t

/-- 10_state R29, 93_implementation_defined I4, 70_reset_and_hazards R213, 10_state R34: ERR holds no reserved code, DONE
and FMT_SKIP are 0 while BUSY = 1, and pixels are converted only with the expected tag. -/
def Obligations.StatusAndFormatInvariantsKept : Prop :=
  ∀ s t : State, SequencerInv s → StatusInv s → FormatInv s → step s = .next t → StatusInv t ∧ FormatInv t

/-- Every step keeps the four buffers, and the model's own copy of OUT (log entry 24), in canonical form (the model's own
form, log entry 2). -/
def Obligations.MemoryStaysCanonical : Prop :=
  ∀ s t : State, MemoryInv s → step s = .next t → MemoryInv t

/-- The invariants hold right after reset. -/
def Obligations.ResetMeetsInvariants : Prop :=
  SequencerInv State.reset ∧ CursorInv State.reset ∧ StatusInv State.reset ∧ FormatInv State.reset ∧ MemoryInv State.reset

/-- 10_state R26 to R29: DONE, FMT_SKIP and TRUNC go from 1 to 0, and a non-zero ERR to 0, only by a reset, an accepted
CONVERT or CONVERT_ALLOC, or CLEAR_STATUS, these at BUSY = 0. -/
def Obligations.StickyFieldsClearedOnlyByCommands : Prop :=
  ∀ s t : State, step s = .next t →
    (s.status.done = true ∧ t.status.done = false) ∨ (s.status.fmtSkip = true ∧ t.status.fmtSkip = false) ∨
      (s.status.trunc = true ∧ t.status.trunc = false) ∨ (s.status.err ≠ 0 ∧ t.status.err = 0) →
    (∃ a rest, s.inputs = { reset := true, act := a } :: rest) ∨
    (s.status.busy = false ∧ ∃ rest i, s.inputs = Script.cmd i :: rest ∧ i ≠ .nop)

/-- 20_memory R53: the block writes OUT only at words 0 to W · H - 1, and never writes a plane: in a step that is no host
buffer write, every other byte stays. -/
def Obligations.EngineWritesOnlyFrameWords : Prop :=
  ∀ s t : State, SequencerInv s → step s = .next t →
    (∀ p i v rest, s.inputs ≠ Script.plain (.planeWrite p i v) :: rest) →
    (∀ k v rest, s.inputs ≠ Script.plain (.outWrite k v) :: rest) →
    (∀ p i, planeByte t p i = planeByte s p i) ∧ (∀ a, 4 * npix s ≤ a → outByte t a = outByte s a) ∧
    (s.phase = .idle → ∀ a, outByte t a = outByte s a)

/-- 70_reset_and_hazards R200, R201, 10_state R45, 93_implementation_defined I11: a reset at any time, whatever action it
meets, sets every register and the engine's state to the reset values, writes no plane, and leaves OUT if BUSY = 0. While
BUSY = 1 each word of OUT below NPIX holds what the abandoned operation wrote or its value from before, and the words from
NPIX on stay. It holds for every draw of these (log entry 13). That the action met is lost is the model's choice (log
entry 7), and `outBefore` and `resetCount` are the model's own fields (log entry 24). -/
def Obligations.ResetClearsBlockAndKeepsPlanes : Prop :=
  ∀ (s : State) (rest : List Input) (a : Action), s.inputs = { reset := true, act := a } :: rest →
    ∃ t, step s = .next t ∧ (∀ p i, planeByte t p i = planeByte s p i) ∧
      (∀ k, outWord t k = outWord s k ∨ (s.status.busy = true ∧ k < npix s ∧ outWord t k = priorWord s k)) ∧
      (∀ b, s.status.busy = false ∨ 4 * npix s ≤ b → outByte t b = outByte s b) ∧
      t = { s with
        status := { busy := false, done := false, fmtSkip := false, trunc := false, err := 0 }
        width := 0, height := 0, formatTag := 0, yCap := 0, aCap := 0, bCap := 0, outLen := 0
        phase := .idle, row := 0, col := 0, zidx := 0, inputs := rest
        bufOut := t.bufOut, resetCount := s.resetCount + 1 }

/-- 10_state R45: STATUS and every register read 0 right after reset, and the engine is idle. -/
def Obligations.ResetStateReadsZero : Prop :=
  (∀ r : Reg, regRead (some r) State.reset = 0) ∧ State.reset.phase = .idle ∧ State.reset.row = 0 ∧
  State.reset.col = 0 ∧ State.reset.zidx = 0
end

