-- ==== Sys2Proof/Laws/Decode.lean ====
section
/-! SUPPORT. The fields of a command word as numbers. -/

namespace Sys2Proof

/-- RSV is 0 exactly in the words below 256. -/
theorem rsvField_eq_zero_iff (c : Word) : rsvField c = 0 ↔ c.toNat < 256 := by
  have h := c.isLt
  rw [← BitVec.toNat_inj]
  simp [rsvField, Nat.shiftRight_eq_div_pow]
  omega

/-- OPC is the word's value modulo 256. -/
theorem opcField_eq_iff (c : Word) (k : BitVec 8) : opcField c = k ↔ c.toNat % 256 = k.toNat := by
  rw [← BitVec.toNat_inj]
  simp [opcField]

end Sys2Proof
end

