-- ==== Sys2Proof/Laws/State.lean ====
section
/-! SUPPORT. Every field after every state update, and every field of STATUS after every STATUS update. -/

namespace Sys2Proof.Machine

/-! ### `Status.cleared` -/

@[simp] theorem Status.cleared_busy (st : Status) : (st.cleared).busy = st.busy := rfl
@[simp] theorem Status.cleared_done (st : Status) : (st.cleared).done = false := rfl
@[simp] theorem Status.cleared_fmtSkip (st : Status) : (st.cleared).fmtSkip = false := rfl
@[simp] theorem Status.cleared_trunc (st : Status) : (st.cleared).trunc = false := rfl
@[simp] theorem Status.cleared_err (st : Status) : (st.cleared).err = 0 := rfl

/-! ### `Status.withErr` -/

@[simp] theorem Status.withErr_busy (st : Status) (c : BitVec 4) : (st.withErr c).busy = st.busy := rfl
@[simp] theorem Status.withErr_done (st : Status) (c : BitVec 4) : (st.withErr c).done = st.done := rfl
@[simp] theorem Status.withErr_fmtSkip (st : Status) (c : BitVec 4) : (st.withErr c).fmtSkip = st.fmtSkip := rfl
@[simp] theorem Status.withErr_trunc (st : Status) (c : BitVec 4) : (st.withErr c).trunc = st.trunc := rfl
@[simp] theorem Status.withErr_err (st : Status) (c : BitVec 4) : (st.withErr c).err = c := rfl

/-! ### `Status.started` -/

@[simp] theorem Status.started_busy (st : Status) : (st.started).busy = true := rfl
@[simp] theorem Status.started_done (st : Status) : (st.started).done = false := rfl
@[simp] theorem Status.started_fmtSkip (st : Status) : (st.started).fmtSkip = false := rfl
@[simp] theorem Status.started_trunc (st : Status) : (st.started).trunc = false := rfl
@[simp] theorem Status.started_err (st : Status) : (st.started).err = 0 := rfl

/-! ### `Status.completed` -/

@[simp] theorem Status.completed_busy (st : Status) : (st.completed).busy = false := rfl
@[simp] theorem Status.completed_done (st : Status) : (st.completed).done = true := rfl
@[simp] theorem Status.completed_fmtSkip (st : Status) : (st.completed).fmtSkip = st.fmtSkip := rfl
@[simp] theorem Status.completed_trunc (st : Status) : (st.completed).trunc = st.trunc := rfl
@[simp] theorem Status.completed_err (st : Status) : (st.completed).err = st.err := rfl

/-! ### `Status.formatSkipped` -/

@[simp] theorem Status.formatSkipped_busy (st : Status) : (st.formatSkipped).busy = st.busy := rfl
@[simp] theorem Status.formatSkipped_done (st : Status) : (st.formatSkipped).done = true := rfl
@[simp] theorem Status.formatSkipped_fmtSkip (st : Status) : (st.formatSkipped).fmtSkip = true := rfl
@[simp] theorem Status.formatSkipped_trunc (st : Status) : (st.formatSkipped).trunc = false := rfl
@[simp] theorem Status.formatSkipped_err (st : Status) : (st.formatSkipped).err = 0 := rfl

/-! ### `Status.outTooSmall` -/

@[simp] theorem Status.outTooSmall_busy (st : Status) : (st.outTooSmall).busy = st.busy := rfl
@[simp] theorem Status.outTooSmall_done (st : Status) : (st.outTooSmall).done = true := rfl
@[simp] theorem Status.outTooSmall_fmtSkip (st : Status) : (st.outTooSmall).fmtSkip = false := rfl
@[simp] theorem Status.outTooSmall_trunc (st : Status) : (st.outTooSmall).trunc = false := rfl
@[simp] theorem Status.outTooSmall_err (st : Status) : (st.outTooSmall).err = errOutTooSmall := rfl

/-! ### `setErr` -/

@[simp] theorem setErr_status (s : State) (c : BitVec 4) : (setErr s c).status = s.status.withErr c := rfl
@[simp] theorem setErr_width (s : State) (c : BitVec 4) : (setErr s c).width = s.width := rfl
@[simp] theorem setErr_height (s : State) (c : BitVec 4) : (setErr s c).height = s.height := rfl
@[simp] theorem setErr_formatTag (s : State) (c : BitVec 4) : (setErr s c).formatTag = s.formatTag := rfl
@[simp] theorem setErr_yCap (s : State) (c : BitVec 4) : (setErr s c).yCap = s.yCap := rfl
@[simp] theorem setErr_aCap (s : State) (c : BitVec 4) : (setErr s c).aCap = s.aCap := rfl
@[simp] theorem setErr_bCap (s : State) (c : BitVec 4) : (setErr s c).bCap = s.bCap := rfl
@[simp] theorem setErr_outLen (s : State) (c : BitVec 4) : (setErr s c).outLen = s.outLen := rfl
@[simp] theorem setErr_phase (s : State) (c : BitVec 4) : (setErr s c).phase = s.phase := rfl
@[simp] theorem setErr_row (s : State) (c : BitVec 4) : (setErr s c).row = s.row := rfl
@[simp] theorem setErr_col (s : State) (c : BitVec 4) : (setErr s c).col = s.col := rfl
@[simp] theorem setErr_zidx (s : State) (c : BitVec 4) : (setErr s c).zidx = s.zidx := rfl
@[simp] theorem setErr_bufY (s : State) (c : BitVec 4) : (setErr s c).bufY = s.bufY := rfl
@[simp] theorem setErr_bufA (s : State) (c : BitVec 4) : (setErr s c).bufA = s.bufA := rfl
@[simp] theorem setErr_bufB (s : State) (c : BitVec 4) : (setErr s c).bufB = s.bufB := rfl
@[simp] theorem setErr_bufOut (s : State) (c : BitVec 4) : (setErr s c).bufOut = s.bufOut := rfl
@[simp] theorem setErr_outBefore (s : State) (c : BitVec 4) : (setErr s c).outBefore = s.outBefore := rfl
@[simp] theorem setErr_resetCount (s : State) (c : BitVec 4) : (setErr s c).resetCount = s.resetCount := rfl
@[simp] theorem setErr_inputs (s : State) (c : BitVec 4) : (setErr s c).inputs = s.inputs := rfl
@[simp] theorem setErr_observed (s : State) (c : BitVec 4) : (setErr s c).observed = s.observed := rfl

/-! ### `complete` -/

@[simp] theorem complete_status (s : State) : (complete s).status = s.status.completed := rfl
@[simp] theorem complete_width (s : State) : (complete s).width = s.width := rfl
@[simp] theorem complete_height (s : State) : (complete s).height = s.height := rfl
@[simp] theorem complete_formatTag (s : State) : (complete s).formatTag = s.formatTag := rfl
@[simp] theorem complete_yCap (s : State) : (complete s).yCap = s.yCap := rfl
@[simp] theorem complete_aCap (s : State) : (complete s).aCap = s.aCap := rfl
@[simp] theorem complete_bCap (s : State) : (complete s).bCap = s.bCap := rfl
@[simp] theorem complete_outLen (s : State) : (complete s).outLen = s.outLen := rfl
@[simp] theorem complete_phase (s : State) : (complete s).phase = .idle := rfl
@[simp] theorem complete_row (s : State) : (complete s).row = 0 := rfl
@[simp] theorem complete_col (s : State) : (complete s).col = 0 := rfl
@[simp] theorem complete_zidx (s : State) : (complete s).zidx = 0 := rfl
@[simp] theorem complete_bufY (s : State) : (complete s).bufY = s.bufY := rfl
@[simp] theorem complete_bufA (s : State) : (complete s).bufA = s.bufA := rfl
@[simp] theorem complete_bufB (s : State) : (complete s).bufB = s.bufB := rfl
@[simp] theorem complete_bufOut (s : State) : (complete s).bufOut = s.bufOut := rfl
@[simp] theorem complete_outBefore (s : State) : (complete s).outBefore = s.outBefore := rfl
@[simp] theorem complete_resetCount (s : State) : (complete s).resetCount = s.resetCount := rfl
@[simp] theorem complete_inputs (s : State) : (complete s).inputs = s.inputs := rfl
@[simp] theorem complete_observed (s : State) : (complete s).observed = s.observed := rfl

/-! ### `resetBlock` -/

@[simp] theorem resetBlock_status (s : State) : (resetBlock s).status = Status.reset := rfl
@[simp] theorem resetBlock_width (s : State) : (resetBlock s).width = 0 := rfl
@[simp] theorem resetBlock_height (s : State) : (resetBlock s).height = 0 := rfl
@[simp] theorem resetBlock_formatTag (s : State) : (resetBlock s).formatTag = 0 := rfl
@[simp] theorem resetBlock_yCap (s : State) : (resetBlock s).yCap = 0 := rfl
@[simp] theorem resetBlock_aCap (s : State) : (resetBlock s).aCap = 0 := rfl
@[simp] theorem resetBlock_bCap (s : State) : (resetBlock s).bCap = 0 := rfl
@[simp] theorem resetBlock_outLen (s : State) : (resetBlock s).outLen = 0 := rfl
@[simp] theorem resetBlock_phase (s : State) : (resetBlock s).phase = .idle := rfl
@[simp] theorem resetBlock_row (s : State) : (resetBlock s).row = 0 := rfl
@[simp] theorem resetBlock_col (s : State) : (resetBlock s).col = 0 := rfl
@[simp] theorem resetBlock_zidx (s : State) : (resetBlock s).zidx = 0 := rfl
@[simp] theorem resetBlock_bufY (s : State) : (resetBlock s).bufY = s.bufY := rfl
@[simp] theorem resetBlock_bufA (s : State) : (resetBlock s).bufA = s.bufA := rfl
@[simp] theorem resetBlock_bufB (s : State) : (resetBlock s).bufB = s.bufB := rfl
@[simp] theorem resetBlock_bufOut (s : State) : (resetBlock s).bufOut = outAfterReset s := rfl
@[simp] theorem resetBlock_outBefore (s : State) : (resetBlock s).outBefore = s.outBefore := rfl
@[simp] theorem resetBlock_resetCount (s : State) : (resetBlock s).resetCount = s.resetCount + 1 := rfl
@[simp] theorem resetBlock_inputs (s : State) : (resetBlock s).inputs = s.inputs := rfl
@[simp] theorem resetBlock_observed (s : State) : (resetBlock s).observed = s.observed := rfl

/-! ### `observe` -/

@[simp] theorem observe_status (s : State) (o : Observation) : (observe s o).status = s.status := rfl
@[simp] theorem observe_width (s : State) (o : Observation) : (observe s o).width = s.width := rfl
@[simp] theorem observe_height (s : State) (o : Observation) : (observe s o).height = s.height := rfl
@[simp] theorem observe_formatTag (s : State) (o : Observation) : (observe s o).formatTag = s.formatTag := rfl
@[simp] theorem observe_yCap (s : State) (o : Observation) : (observe s o).yCap = s.yCap := rfl
@[simp] theorem observe_aCap (s : State) (o : Observation) : (observe s o).aCap = s.aCap := rfl
@[simp] theorem observe_bCap (s : State) (o : Observation) : (observe s o).bCap = s.bCap := rfl
@[simp] theorem observe_outLen (s : State) (o : Observation) : (observe s o).outLen = s.outLen := rfl
@[simp] theorem observe_phase (s : State) (o : Observation) : (observe s o).phase = s.phase := rfl
@[simp] theorem observe_row (s : State) (o : Observation) : (observe s o).row = s.row := rfl
@[simp] theorem observe_col (s : State) (o : Observation) : (observe s o).col = s.col := rfl
@[simp] theorem observe_zidx (s : State) (o : Observation) : (observe s o).zidx = s.zidx := rfl
@[simp] theorem observe_bufY (s : State) (o : Observation) : (observe s o).bufY = s.bufY := rfl
@[simp] theorem observe_bufA (s : State) (o : Observation) : (observe s o).bufA = s.bufA := rfl
@[simp] theorem observe_bufB (s : State) (o : Observation) : (observe s o).bufB = s.bufB := rfl
@[simp] theorem observe_bufOut (s : State) (o : Observation) : (observe s o).bufOut = s.bufOut := rfl
@[simp] theorem observe_outBefore (s : State) (o : Observation) : (observe s o).outBefore = s.outBefore := rfl
@[simp] theorem observe_resetCount (s : State) (o : Observation) : (observe s o).resetCount = s.resetCount := rfl
@[simp] theorem observe_inputs (s : State) (o : Observation) : (observe s o).inputs = s.inputs := rfl
@[simp] theorem observe_observed (s : State) (o : Observation) : (observe s o).observed = o :: s.observed := rfl

/-! ### `withInputs` -/

@[simp] theorem withInputs_status (s : State) (l : List Input) : (withInputs s l).status = s.status := rfl
@[simp] theorem withInputs_width (s : State) (l : List Input) : (withInputs s l).width = s.width := rfl
@[simp] theorem withInputs_height (s : State) (l : List Input) : (withInputs s l).height = s.height := rfl
@[simp] theorem withInputs_formatTag (s : State) (l : List Input) : (withInputs s l).formatTag = s.formatTag := rfl
@[simp] theorem withInputs_yCap (s : State) (l : List Input) : (withInputs s l).yCap = s.yCap := rfl
@[simp] theorem withInputs_aCap (s : State) (l : List Input) : (withInputs s l).aCap = s.aCap := rfl
@[simp] theorem withInputs_bCap (s : State) (l : List Input) : (withInputs s l).bCap = s.bCap := rfl
@[simp] theorem withInputs_outLen (s : State) (l : List Input) : (withInputs s l).outLen = s.outLen := rfl
@[simp] theorem withInputs_phase (s : State) (l : List Input) : (withInputs s l).phase = s.phase := rfl
@[simp] theorem withInputs_row (s : State) (l : List Input) : (withInputs s l).row = s.row := rfl
@[simp] theorem withInputs_col (s : State) (l : List Input) : (withInputs s l).col = s.col := rfl
@[simp] theorem withInputs_zidx (s : State) (l : List Input) : (withInputs s l).zidx = s.zidx := rfl
@[simp] theorem withInputs_bufY (s : State) (l : List Input) : (withInputs s l).bufY = s.bufY := rfl
@[simp] theorem withInputs_bufA (s : State) (l : List Input) : (withInputs s l).bufA = s.bufA := rfl
@[simp] theorem withInputs_bufB (s : State) (l : List Input) : (withInputs s l).bufB = s.bufB := rfl
@[simp] theorem withInputs_bufOut (s : State) (l : List Input) : (withInputs s l).bufOut = s.bufOut := rfl
@[simp] theorem withInputs_outBefore (s : State) (l : List Input) : (withInputs s l).outBefore = s.outBefore := rfl
@[simp] theorem withInputs_resetCount (s : State) (l : List Input) : (withInputs s l).resetCount = s.resetCount := rfl
@[simp] theorem withInputs_inputs (s : State) (l : List Input) : (withInputs s l).inputs = l := rfl
@[simp] theorem withInputs_observed (s : State) (l : List Input) : (withInputs s l).observed = s.observed := rfl

/-! ### `putOut` -/

@[simp] theorem putOut_status (s : State) (k : Nat) (w : Word) : (putOut s k w).status = s.status := rfl
@[simp] theorem putOut_width (s : State) (k : Nat) (w : Word) : (putOut s k w).width = s.width := rfl
@[simp] theorem putOut_height (s : State) (k : Nat) (w : Word) : (putOut s k w).height = s.height := rfl
@[simp] theorem putOut_formatTag (s : State) (k : Nat) (w : Word) : (putOut s k w).formatTag = s.formatTag := rfl
@[simp] theorem putOut_yCap (s : State) (k : Nat) (w : Word) : (putOut s k w).yCap = s.yCap := rfl
@[simp] theorem putOut_aCap (s : State) (k : Nat) (w : Word) : (putOut s k w).aCap = s.aCap := rfl
@[simp] theorem putOut_bCap (s : State) (k : Nat) (w : Word) : (putOut s k w).bCap = s.bCap := rfl
@[simp] theorem putOut_outLen (s : State) (k : Nat) (w : Word) : (putOut s k w).outLen = s.outLen := rfl
@[simp] theorem putOut_phase (s : State) (k : Nat) (w : Word) : (putOut s k w).phase = s.phase := rfl
@[simp] theorem putOut_row (s : State) (k : Nat) (w : Word) : (putOut s k w).row = s.row := rfl
@[simp] theorem putOut_col (s : State) (k : Nat) (w : Word) : (putOut s k w).col = s.col := rfl
@[simp] theorem putOut_zidx (s : State) (k : Nat) (w : Word) : (putOut s k w).zidx = s.zidx := rfl
@[simp] theorem putOut_bufY (s : State) (k : Nat) (w : Word) : (putOut s k w).bufY = s.bufY := rfl
@[simp] theorem putOut_bufA (s : State) (k : Nat) (w : Word) : (putOut s k w).bufA = s.bufA := rfl
@[simp] theorem putOut_bufB (s : State) (k : Nat) (w : Word) : (putOut s k w).bufB = s.bufB := rfl
@[simp] theorem putOut_bufOut (s : State) (k : Nat) (w : Word) : (putOut s k w).bufOut = s.bufOut.insertWord k w := rfl
@[simp] theorem putOut_outBefore (s : State) (k : Nat) (w : Word) : (putOut s k w).outBefore = s.outBefore := rfl
@[simp] theorem putOut_resetCount (s : State) (k : Nat) (w : Word) : (putOut s k w).resetCount = s.resetCount := rfl
@[simp] theorem putOut_inputs (s : State) (k : Nat) (w : Word) : (putOut s k w).inputs = s.inputs := rfl
@[simp] theorem putOut_observed (s : State) (k : Nat) (w : Word) : (putOut s k w).observed = s.observed := rfl

/-! ### `truncateRow` -/

@[simp] theorem truncateRow_status (s : State) : (truncateRow s).status = { s.status with trunc := true } := rfl
@[simp] theorem truncateRow_width (s : State) : (truncateRow s).width = s.width := rfl
@[simp] theorem truncateRow_height (s : State) : (truncateRow s).height = s.height := rfl
@[simp] theorem truncateRow_formatTag (s : State) : (truncateRow s).formatTag = s.formatTag := rfl
@[simp] theorem truncateRow_yCap (s : State) : (truncateRow s).yCap = s.yCap := rfl
@[simp] theorem truncateRow_aCap (s : State) : (truncateRow s).aCap = s.aCap := rfl
@[simp] theorem truncateRow_bCap (s : State) : (truncateRow s).bCap = s.bCap := rfl
@[simp] theorem truncateRow_outLen (s : State) : (truncateRow s).outLen = s.outLen := rfl
@[simp] theorem truncateRow_phase (s : State) : (truncateRow s).phase = s.phase := rfl
@[simp] theorem truncateRow_row (s : State) : (truncateRow s).row = s.row + 1 := rfl
@[simp] theorem truncateRow_col (s : State) : (truncateRow s).col = 0 := rfl
@[simp] theorem truncateRow_zidx (s : State) : (truncateRow s).zidx = s.zidx := rfl
@[simp] theorem truncateRow_bufY (s : State) : (truncateRow s).bufY = s.bufY := rfl
@[simp] theorem truncateRow_bufA (s : State) : (truncateRow s).bufA = s.bufA := rfl
@[simp] theorem truncateRow_bufB (s : State) : (truncateRow s).bufB = s.bufB := rfl
@[simp] theorem truncateRow_bufOut (s : State) : (truncateRow s).bufOut = s.bufOut := rfl
@[simp] theorem truncateRow_outBefore (s : State) : (truncateRow s).outBefore = s.outBefore := rfl
@[simp] theorem truncateRow_resetCount (s : State) : (truncateRow s).resetCount = s.resetCount := rfl
@[simp] theorem truncateRow_inputs (s : State) : (truncateRow s).inputs = s.inputs := rfl
@[simp] theorem truncateRow_observed (s : State) : (truncateRow s).observed = s.observed := rfl

/-! ### `advance` -/

@[simp] theorem advance_status (s : State) : (advance s).status = s.status := rfl
@[simp] theorem advance_width (s : State) : (advance s).width = s.width := rfl
@[simp] theorem advance_height (s : State) : (advance s).height = s.height := rfl
@[simp] theorem advance_formatTag (s : State) : (advance s).formatTag = s.formatTag := rfl
@[simp] theorem advance_yCap (s : State) : (advance s).yCap = s.yCap := rfl
@[simp] theorem advance_aCap (s : State) : (advance s).aCap = s.aCap := rfl
@[simp] theorem advance_bCap (s : State) : (advance s).bCap = s.bCap := rfl
@[simp] theorem advance_outLen (s : State) : (advance s).outLen = s.outLen := rfl
@[simp] theorem advance_phase (s : State) : (advance s).phase = s.phase := rfl
@[simp] theorem advance_row (s : State) : (advance s).row = if curCol s + 1 < frameW s then s.row else s.row + 1 := rfl
@[simp] theorem advance_col (s : State) : (advance s).col = if curCol s + 1 < frameW s then s.col + 1 else 0 := rfl
@[simp] theorem advance_zidx (s : State) : (advance s).zidx = s.zidx := rfl
@[simp] theorem advance_bufY (s : State) : (advance s).bufY = s.bufY := rfl
@[simp] theorem advance_bufA (s : State) : (advance s).bufA = s.bufA := rfl
@[simp] theorem advance_bufB (s : State) : (advance s).bufB = s.bufB := rfl
@[simp] theorem advance_bufOut (s : State) : (advance s).bufOut = s.bufOut := rfl
@[simp] theorem advance_outBefore (s : State) : (advance s).outBefore = s.outBefore := rfl
@[simp] theorem advance_resetCount (s : State) : (advance s).resetCount = s.resetCount := rfl
@[simp] theorem advance_inputs (s : State) : (advance s).inputs = s.inputs := rfl
@[simp] theorem advance_observed (s : State) : (advance s).observed = s.observed := rfl

/-! ### `putPlane` -/

@[simp] theorem putPlane_status (s : State) (p : Plane) (i : Nat) (v : Byte) : (putPlane s p i v).status = s.status := rfl
@[simp] theorem putPlane_width (s : State) (p : Plane) (i : Nat) (v : Byte) : (putPlane s p i v).width = s.width := rfl
@[simp] theorem putPlane_height (s : State) (p : Plane) (i : Nat) (v : Byte) : (putPlane s p i v).height = s.height := rfl
@[simp] theorem putPlane_formatTag (s : State) (p : Plane) (i : Nat) (v : Byte) : (putPlane s p i v).formatTag = s.formatTag := rfl
@[simp] theorem putPlane_yCap (s : State) (p : Plane) (i : Nat) (v : Byte) : (putPlane s p i v).yCap = s.yCap := rfl
@[simp] theorem putPlane_aCap (s : State) (p : Plane) (i : Nat) (v : Byte) : (putPlane s p i v).aCap = s.aCap := rfl
@[simp] theorem putPlane_bCap (s : State) (p : Plane) (i : Nat) (v : Byte) : (putPlane s p i v).bCap = s.bCap := rfl
@[simp] theorem putPlane_outLen (s : State) (p : Plane) (i : Nat) (v : Byte) : (putPlane s p i v).outLen = s.outLen := rfl
@[simp] theorem putPlane_phase (s : State) (p : Plane) (i : Nat) (v : Byte) : (putPlane s p i v).phase = s.phase := rfl
@[simp] theorem putPlane_row (s : State) (p : Plane) (i : Nat) (v : Byte) : (putPlane s p i v).row = s.row := rfl
@[simp] theorem putPlane_col (s : State) (p : Plane) (i : Nat) (v : Byte) : (putPlane s p i v).col = s.col := rfl
@[simp] theorem putPlane_zidx (s : State) (p : Plane) (i : Nat) (v : Byte) : (putPlane s p i v).zidx = s.zidx := rfl
@[simp] theorem putPlane_bufY (s : State) (p : Plane) (i : Nat) (v : Byte) : (putPlane s p i v).bufY = if p = .y then s.bufY.insert i v else s.bufY := rfl
@[simp] theorem putPlane_bufA (s : State) (p : Plane) (i : Nat) (v : Byte) : (putPlane s p i v).bufA = if p = .a then s.bufA.insert i v else s.bufA := rfl
@[simp] theorem putPlane_bufB (s : State) (p : Plane) (i : Nat) (v : Byte) : (putPlane s p i v).bufB = if p = .b then s.bufB.insert i v else s.bufB := rfl
@[simp] theorem putPlane_bufOut (s : State) (p : Plane) (i : Nat) (v : Byte) : (putPlane s p i v).bufOut = s.bufOut := rfl
@[simp] theorem putPlane_outBefore (s : State) (p : Plane) (i : Nat) (v : Byte) : (putPlane s p i v).outBefore = s.outBefore := rfl
@[simp] theorem putPlane_resetCount (s : State) (p : Plane) (i : Nat) (v : Byte) : (putPlane s p i v).resetCount = s.resetCount := rfl
@[simp] theorem putPlane_inputs (s : State) (p : Plane) (i : Nat) (v : Byte) : (putPlane s p i v).inputs = s.inputs := rfl
@[simp] theorem putPlane_observed (s : State) (p : Plane) (i : Nat) (v : Byte) : (putPlane s p i v).observed = s.observed := rfl

/-! ### `Status.reset` and `pollStatus` -/

@[simp] theorem Status.reset_busy : Status.reset.busy = false := rfl
@[simp] theorem Status.reset_done : Status.reset.done = false := rfl
@[simp] theorem Status.reset_fmtSkip : Status.reset.fmtSkip = false := rfl
@[simp] theorem Status.reset_trunc : Status.reset.trunc = false := rfl
@[simp] theorem Status.reset_err : Status.reset.err = 0 := rfl

@[simp] theorem pollStatus_status (s : State) : (pollStatus s).status = s.status := rfl
@[simp] theorem pollStatus_width (s : State) : (pollStatus s).width = s.width := rfl
@[simp] theorem pollStatus_height (s : State) : (pollStatus s).height = s.height := rfl
@[simp] theorem pollStatus_formatTag (s : State) : (pollStatus s).formatTag = s.formatTag := rfl
@[simp] theorem pollStatus_yCap (s : State) : (pollStatus s).yCap = s.yCap := rfl
@[simp] theorem pollStatus_aCap (s : State) : (pollStatus s).aCap = s.aCap := rfl
@[simp] theorem pollStatus_bCap (s : State) : (pollStatus s).bCap = s.bCap := rfl
@[simp] theorem pollStatus_outLen (s : State) : (pollStatus s).outLen = s.outLen := rfl
@[simp] theorem pollStatus_phase (s : State) : (pollStatus s).phase = s.phase := rfl
@[simp] theorem pollStatus_row (s : State) : (pollStatus s).row = s.row := rfl
@[simp] theorem pollStatus_col (s : State) : (pollStatus s).col = s.col := rfl
@[simp] theorem pollStatus_zidx (s : State) : (pollStatus s).zidx = s.zidx := rfl
@[simp] theorem pollStatus_bufY (s : State) : (pollStatus s).bufY = s.bufY := rfl
@[simp] theorem pollStatus_bufA (s : State) : (pollStatus s).bufA = s.bufA := rfl
@[simp] theorem pollStatus_bufB (s : State) : (pollStatus s).bufB = s.bufB := rfl
@[simp] theorem pollStatus_bufOut (s : State) : (pollStatus s).bufOut = s.bufOut := rfl
@[simp] theorem pollStatus_outBefore (s : State) : (pollStatus s).outBefore = s.outBefore := rfl
@[simp] theorem pollStatus_resetCount (s : State) : (pollStatus s).resetCount = s.resetCount := rfl

end Sys2Proof.Machine
end

