-- ==== Sys2Proof/Laws/Memory.lean ====
section
/-! SUPPORT. Memory: a read after a write, and the canonical form that every write keeps. -/

namespace Sys2Proof.Machine

/-! ### Lookup after insert -/

theorem Memory.lookup_insert (m : Memory) (x y : Nat) (w : Byte) :
    (m.insert x w).lookup y = if x = y then some w else m.lookup y := by
  induction m with
  | nil =>
    by_cases h : x = y
    · simp [Memory.insert, Memory.lookup, h]
    · simp [Memory.insert, Memory.lookup, h]
  | cons c m ih =>
    obtain ⟨a, v⟩ := c
    simp only [Memory.insert]
    split
    · by_cases h : x = y
      · simp [Memory.lookup, h]
      · simp only [Memory.lookup, h, if_false]
    · split
      · subst_vars
        by_cases h : a = y
        · simp [Memory.lookup, h]
        · simp [Memory.lookup, h]
      · simp only [Memory.lookup, ih]
        by_cases h : x = y
        · rw [if_pos h, if_pos h, if_neg (by omega)]
        · simp only [h, if_false]

@[simp] theorem Memory.lookup_insert_same (m : Memory) (x : Nat) (w : Byte) : (m.insert x w).lookup x = some w := by
  rw [Memory.lookup_insert, if_pos rfl]

theorem Memory.lookup_insert_other (m : Memory) {x y : Nat} (w : Byte) (h : x ≠ y) :
    (m.insert x w).lookup y = m.lookup y := by
  rw [Memory.lookup_insert, if_neg h]

/-- The four bytes of a stored word, and every other byte as it was. -/
theorem Memory.lookup_insertWord (m : Memory) (k : Nat) (w : Word) (y : Nat) :
    (m.insertWord k w).lookup y =
      if y / 4 = k then some (byteView w (y % 4)) else m.lookup y := by
  simp only [Memory.insertWord, Memory.lookup_insert]
  by_cases h : y / 4 = k
  · rw [if_pos h]
    have h4 : y % 4 = 0 ∨ y % 4 = 1 ∨ y % 4 = 2 ∨ y % 4 = 3 := by omega
    rcases h4 with e | e | e | e <;> simp only [e]
    · rw [if_neg (by omega), if_neg (by omega), if_neg (by omega), if_pos (by omega)]
    · rw [if_neg (by omega), if_neg (by omega), if_pos (by omega)]
    · rw [if_neg (by omega), if_pos (by omega)]
    · rw [if_pos (by omega)]
  · rw [if_neg h, if_neg (by omega), if_neg (by omega), if_neg (by omega), if_neg (by omega)]

/-! ### The canonical form -/

theorem Memory.mem_insert {m : Memory} {x : Nat} {w : Byte} {c : Host.Cell} (h : c ∈ m.insert x w) :
    c = (x, w) ∨ c ∈ m := by
  induction m with
  | nil => simpa [Memory.insert] using h
  | cons d m ih =>
    obtain ⟨a, v⟩ := d
    simp only [Memory.insert] at h
    split at h
    · simpa using h
    · split at h
      · rcases List.mem_cons.mp h with h | h
        · exact .inl h
        · exact .inr (List.mem_cons_of_mem _ h)
      · rcases List.mem_cons.mp h with h | h
        · exact .inr (h ▸ List.mem_cons_self ..)
        · exact (ih h).imp id (List.mem_cons_of_mem _)

/-- A write keeps the canonical form. -/
theorem Memory.insert_wf {m : Memory} (h : m.wf) (x : Nat) (w : Byte) : (m.insert x w).wf := by
  induction m with
  | nil => simp [Memory.insert, Memory.wf]
  | cons c m ih =>
    obtain ⟨a, v⟩ := c
    have hm := List.pairwise_cons.mp h
    simp only [Memory.insert]
    split
    · rename_i hxa
      refine List.pairwise_cons.mpr ⟨fun d hd => ?_, h⟩
      rcases List.mem_cons.mp hd with rfl | hd
      · exact hxa
      · exact Nat.lt_trans hxa (hm.1 d hd)
    · split
      · subst_vars
        exact List.pairwise_cons.mpr ⟨fun d hd => hm.1 d hd, hm.2⟩
      · refine List.pairwise_cons.mpr ⟨fun d hd => ?_, ih hm.2⟩
        rcases Memory.mem_insert hd with rfl | hd
        · show a < x
          omega
        · exact hm.1 d hd

theorem Memory.insertWord_wf {m : Memory} (h : m.wf) (k : Nat) (w : Word) : (m.insertWord k w).wf :=
  Memory.insert_wf (Memory.insert_wf (Memory.insert_wf (Memory.insert_wf h _ _) _ _) _ _) _ _

/-- Storing a plane byte keeps every buffer canonical. -/
theorem putPlane_memoryInv {s : State} (h : MemoryInv s) (p : Plane) (i : Nat) (v : Byte) : MemoryInv (putPlane s p i v) := by
  obtain ⟨hy, ha, hb, ho, hp⟩ := h
  cases p <;> simp [MemoryInv, hy, ha, hb, ho, hp, Memory.insert_wf]

/-- Storing an OUT word keeps every buffer canonical. -/
theorem putOut_memoryInv {s : State} (h : MemoryInv s) (k : Nat) (w : Word) : MemoryInv (putOut s k w) :=
  ⟨h.1, h.2.1, h.2.2.1, Memory.insertWord_wf h.2.2.2.1 k w, h.2.2.2.2⟩

/-! ### The reads of the model after its writes -/

theorem wordOfBytes_byteView (w : Word) : wordOfBytes (byteView w 0) (byteView w 1) (byteView w 2) (byteView w 3) = w := by
  simp only [wordOfBytes, byteView]
  ext i hi
  simp only [BitVec.getElem_append, BitVec.getElem_extractLsb']
  repeat' split
  all_goals rw [← BitVec.getLsbD_eq_getElem hi]
  all_goals congr 1
  all_goals omega

/-- A byte of OUT after a word is stored: a byte of the word inside it, unchanged outside. -/
theorem outByte_putOut (s : State) (k : Nat) (w : Word) (a : Nat) :
    outByte (putOut s k w) a = if a / 4 = k then byteView w (a % 4) else outByte s a := by
  simp only [outByte, putOut_bufOut, Memory.lookup_insertWord]
  split <;> rfl

/-- A word of OUT after a word is stored. -/
theorem outWord_putOut (s : State) (k j : Nat) (w : Word) :
    outWord (putOut s k w) j = if j = k then w else outWord s j := by
  simp only [outWord, outByte_putOut]
  rw [show 4 * j / 4 = j by omega, show (4 * j + 1) / 4 = j by omega, show (4 * j + 2) / 4 = j by omega,
    show (4 * j + 3) / 4 = j by omega, show 4 * j % 4 = 0 by omega, show (4 * j + 1) % 4 = 1 by omega,
    show (4 * j + 2) % 4 = 2 by omega, show (4 * j + 3) % 4 = 3 by omega]
  split
  · exact wordOfBytes_byteView w
  · rfl

/-- A plane byte after a plane byte is stored. -/
theorem planeByte_putPlane (s : State) (p q : Plane) (i j : Nat) (v : Byte) :
    planeByte (putPlane s p i v) q j = if p = q ∧ i = j then v else planeByte s q j := by
  cases p <;> cases q <;> simp [planeByte, planeMem, Memory.lookup_insert] <;> split <;> rfl

/-- Storing in a plane leaves OUT alone. -/
@[simp] theorem outByte_putPlane (s : State) (p : Plane) (i : Nat) (v : Byte) (a : Nat) :
    outByte (putPlane s p i v) a = outByte s a := rfl

/-- Storing in OUT leaves the planes alone. -/
@[simp] theorem planeByte_putOut (s : State) (k : Nat) (w : Word) (p : Plane) (i : Nat) :
    planeByte (putOut s k w) p i = planeByte s p i := by
  cases p <;> rfl

/-! ### OUT after a reset -/

/-- Looking up in the cells whose address satisfies `p`. -/
theorem Memory.lookup_filter (m : Memory) (p : Nat → Bool) (x : Nat) :
    Memory.lookup (m.filter fun c => p c.1) x = if p x then m.lookup x else none := by
  induction m with
  | nil => simp [Memory.lookup]
  | cons c m ih =>
    obtain ⟨a, v⟩ := c
    by_cases hx : a = x
    · subst hx
      cases ha : p a <;> simp_all [Memory.lookup]
    · cases ha : p a <;> simp_all [Memory.lookup]

/-- Looking up after every cell of `m` is written over `base`. -/
theorem Memory.lookup_foldr_insert (m base : Memory) (x : Nat) :
    Memory.lookup (m.foldr (fun c n => Memory.insert n c.1 c.2) base) x = (m.lookup x).or (base.lookup x) := by
  induction m with
  | nil => rfl
  | cons c m ih =>
    obtain ⟨a, v⟩ := c
    simp only [List.foldr_cons, Memory.lookup_insert, Memory.lookup, ih]
    split <;> rfl

theorem Memory.lookup_mergeWords (keep : Nat → Bool) (written prior : Memory) (x : Nat) :
    (Memory.mergeWords keep written prior).lookup x = if keep (x / 4) then written.lookup x else prior.lookup x := by
  simp only [Memory.mergeWords, Memory.lookup_foldr_insert]
  rw [Memory.lookup_filter prior (fun a => !keep (a / 4)), Memory.lookup_filter written (fun a => keep (a / 4))]
  cases keep (x / 4) <;> simp

theorem Memory.foldr_insert_wf {base : Memory} (h : base.wf) (m : Memory) :
    Memory.wf (m.foldr (fun c n => Memory.insert n c.1 c.2) base) := by
  induction m with
  | nil => exact h
  | cons c m ih => exact Memory.insert_wf ih _ _

/-- A merge keeps the canonical form. -/
theorem Memory.mergeWords_wf (keep : Nat → Bool) {written : Memory} (h : written.wf) (prior : Memory) :
    (Memory.mergeWords keep written prior).wf :=
  Memory.foldr_insert_wf (List.Pairwise.filter _ h) _

/-- OUT after a reset is in canonical form. -/
theorem outAfterReset_wf {s : State} (h : s.bufOut.wf) : (outAfterReset s).wf := by
  unfold outAfterReset
  split
  · exact Memory.mergeWords_wf _ h _
  · exact h

/-- A reset keeps every buffer canonical. -/
theorem resetBlock_memoryInv {s : State} (h : MemoryInv s) : MemoryInv (resetBlock s) :=
  ⟨h.1, h.2.1, h.2.2.1, outAfterReset_wf h.2.2.2.1, h.2.2.2.2⟩

/-- A byte of OUT after a reset: its own, or the one from before the operation that the reset abandons
(70_reset_and_hazards R201). -/
theorem outByte_resetBlock (s : State) (a : Nat) :
    outByte (resetBlock s) a =
      if s.status.busy = true ∧ resetKeepsWord s (a / 4) = false then priorByte s a else outByte s a := by
  simp only [outByte, priorByte, resetBlock_bufOut, outAfterReset]
  cases s.status.busy
  · simp
  · simp only [if_true, Memory.lookup_mergeWords, true_and]
    cases resetKeepsWord s (a / 4) <;> simp

/-- A word of OUT after a reset. -/
theorem outWord_resetBlock (s : State) (k : Nat) :
    outWord (resetBlock s) k =
      if s.status.busy = true ∧ resetKeepsWord s k = false then priorWord s k else outWord s k := by
  simp only [outWord, priorWord, outByte_resetBlock]
  rw [show 4 * k / 4 = k by omega, show (4 * k + 1) / 4 = k by omega, show (4 * k + 2) / 4 = k by omega,
    show (4 * k + 3) / 4 = k by omega]
  split <;> rfl

/-- Words at NPIX and above stay through every reset (93_implementation_defined I11). -/
theorem resetKeepsWord_of_npix_le {s : State} {k : Nat} (h : npix s ≤ k) : resetKeepsWord s k = true := by
  simp [resetKeepsWord, h]

/-- A reset writes no plane. -/
@[simp] theorem planeByte_resetBlock (s : State) (p : Plane) (i : Nat) : planeByte (resetBlock s) p i = planeByte s p i := by
  cases p <;> rfl

/-! ### The engine's accesses -/

/-- MemRead answers the byte exactly below the capacity register. -/
theorem memRead_ok {s : State} {p : Plane} {i : Nat} (h : i < planeCap s p) : memRead s p i = .ok (planeByte s p i) :=
  if_pos h

/-- MemWrite answers the state with the word stored exactly below OUT_LEN. -/
theorem memWrite_ok {s : State} {k : Nat} (w : Word) (h : k < s.outLen.toNat) : memWrite s k w = .ok (putOut s k w) :=
  if_pos h

end Sys2Proof.Machine
end

