-- ==== Sys2Proof/Laws/Engine.lean ====
section
/-! SUPPORT. Everything an engine step can do. -/

namespace Sys2Proof.Machine

/-! ### The guard -/

/-- A pixel whose guard has not tripped is read inside all three capacities (41_pixel_walk R130). -/
theorem reads_in_bounds_of_not_guardTrips {s : State} {i j : Nat} (h : guardTrips s i j = false) :
    lumaCursor s i j < s.yCap.toNat ∧ chromaAddrA s i j < s.aCap.toNat ∧ chromaAddrB s i j < s.bCap.toNat := by
  obtain ⟨h1, h2⟩ := Bool.or_eq_false_iff.mp h
  have h1 := of_decide_eq_false h1
  have h2 := of_decide_eq_false h2
  have ha : ccap s ≤ s.aCap.toNat := Nat.min_le_left ..
  have hb : ccap s ≤ s.bCap.toNat := Nat.min_le_right ..
  simp only [chromaAddrA, chromaAddrB]
  omega

/-- The guard in the registers' numbers (41_pixel_walk R128). -/
theorem guardTrips_iff (s : State) (i j : Nat) :
    guardTrips s i j = true ↔
      ccap s ≤ i / 2 * frameW s + 2 * (j / 2) + 1 ∨ s.yCap.toNat ≤ i * frameW s + j := by
  simp [guardTrips, uvPos, uvRowBase, lumaCursor]

/-- Once the guard trips in a row, it trips at every later column of the row (41_pixel_walk R131). -/
theorem guardTrips_mono {s : State} {i j j' : Nat} (h : guardTrips s i j = true) (hj : j ≤ j') : guardTrips s i j' = true := by
  rw [guardTrips_iff] at *
  omega

/-- The luma cursor of a pixel of the frame is below NPIX (41_pixel_walk R130). -/
theorem lumaCursor_lt_npix {s : State} {i j : Nat} (hi : i < frameH s) (hj : j < frameW s) : lumaCursor s i j < npix s := by
  have h : (i + 1) * frameW s ≤ frameH s * frameW s := Nat.mul_le_mul_right _ hi
  rw [Nat.add_mul, Nat.one_mul] at h
  simp only [lumaCursor, npix, Nat.mul_comm (frameW s) (frameH s)]
  omega

/-- NPIX fits in 32 bits (40_commands R106). -/
theorem npix_le (s : State) : npix s ≤ 4294836225 := by
  have hw : frameW s ≤ 65535 := by
    have := s.width.isLt
    simp only [frameW]
    omega
  have hh : frameH s ≤ 65535 := by
    have := s.height.isLt
    simp only [frameH]
    omega
  exact Nat.mul_le_mul hw hh

/-! ### One pixel -/

/-- What the pixel at the cursor does once its guard has not tripped: the word of its own three samples is stored at
its own luma cursor. -/
theorem convertPixel_eq {s : State} (h : guardTrips s (curRow s) (curCol s) = false) :
    convertPixel s =
      if lumaCursor s (curRow s) (curCol s) < s.outLen.toNat then
        .next (advance (putOut s (lumaCursor s (curRow s) (curCol s)) (pixelValue s (curRow s) (curCol s))))
      else .fault (.writeBeyondOutLen (lumaCursor s (curRow s) (curCol s))) := by
  obtain ⟨hy, ha, hb⟩ := reads_in_bounds_of_not_guardTrips h
  have hy' : lumaCursor s (curRow s) (curCol s) < planeCap s .y := hy
  have ha' : chromaAddrA s (curRow s) (curCol s) < planeCap s .a := ha
  have hb' : chromaAddrB s (curRow s) (curCol s) < planeCap s .b := hb
  simp only [convertPixel, memRead_ok hy', memRead_ok ha', memRead_ok hb', withAccess, memWrite]
  by_cases hl : lumaCursor s (curRow s) (curCol s) < s.outLen.toNat
  · simp only [if_pos hl]
    rfl
  · simp only [if_neg hl]

/-! ### One step -/

/-- The state after a zero-fill step that writes a word (43_output_packer R166). -/
def zeroedWord (s : State) : State := { putOut s s.zidx.toNat 0 with zidx := s.zidx + 1 }

/-- The state after a converted pixel. -/
def convertedPixel (s : State) : State :=
  advance (putOut s (lumaCursor s (curRow s) (curCol s)) (pixelValue s (curRow s) (curCol s)))

/-- All that an engine step can do when it answers a next state. -/
inductive EngineMove (s : State) : State → Prop where
  /-- The engine has no step. -/
  | idle (hp : s.phase = .idle) : EngineMove s s
  /-- A word of OUT is zeroed. -/
  | zero (hp : s.phase = .zfill) (hz : s.zidx.toNat < npix s) (hl : s.zidx.toNat < s.outLen.toNat) :
    EngineMove s (zeroedWord s)
  /-- The zero-fill is over and the tag does not match. -/
  | zeroSkip (hp : s.phase = .zfill) (hz : npix s ≤ s.zidx.toNat) (hf : s.formatTag ≠ Config.fmtYuv420) :
    EngineMove s (complete { s with status := { s.status with fmtSkip := true } })
  /-- The zero-fill is over and the conversion starts. -/
  | zeroDone (hp : s.phase = .zfill) (hz : npix s ≤ s.zidx.toNat) (hf : s.formatTag = Config.fmtYuv420) :
    EngineMove s { s with phase := .conv, row := 0, col := 0 }
  /-- The conversion is over. -/
  | complete (hp : s.phase = .conv) (he : curRow s = frameH s ∨ frameW s = 0) : EngineMove s (complete s)
  /-- The guard trips. -/
  | truncate (hp : s.phase = .conv) (hr : curRow s ≠ frameH s) (hw : frameW s ≠ 0)
      (hg : guardTrips s (curRow s) (curCol s) = true) : EngineMove s (truncateRow s)
  /-- A pixel is converted. -/
  | pixel (hp : s.phase = .conv) (hr : curRow s ≠ frameH s) (hw : frameW s ≠ 0)
      (hg : guardTrips s (curRow s) (curCol s) = false)
      (hl : lumaCursor s (curRow s) (curCol s) < s.outLen.toNat) : EngineMove s (convertedPixel s)

/-- An engine step that answers a next state made one of the moves. -/
theorem engineMove_of_engineStep {s t : State} (h : engineStep s = .next t) : EngineMove s t := by
  unfold engineStep at h
  split at h
  · rename_i hp
    cases h
    exact .idle hp
  · rename_i hp
    unfold zfillStep at h
    split at h
    · rename_i hz
      by_cases hl : s.zidx.toNat < s.outLen.toNat
      · rw [memWrite_ok _ hl] at h
        cases h
        exact .zero hp hz hl
      · simp [memWrite, hl, withAccess] at h
    · rename_i hz
      cases h
      unfold afterZfill
      split
      · rename_i hf
        exact .zeroSkip hp (by omega) hf
      · rename_i hf
        exact .zeroDone hp (by omega) (by simpa using hf)
  · rename_i hp
    unfold convStep at h
    split at h
    · rename_i he
      cases h
      exact .complete hp he
    · rename_i he
      obtain ⟨hr, hw⟩ := not_or.mp he
      split at h
      · rename_i hg
        cases h
        exact .truncate hp hr hw hg
      · rename_i hg
        have hg := Bool.eq_false_iff.mpr hg
        rw [convertPixel_eq hg] at h
        split at h
        · rename_i hl
          cases h
          exact .pixel hp hr hw hg hl
        · cases h

/-- Each move is what the engine step answers. -/
theorem engineStep_of_engineMove {s t : State} (h : EngineMove s t) : engineStep s = .next t := by
  cases h with
  | idle hp => simp only [engineStep, hp]
  | zero hp hz hl => simp [engineStep, hp, zfillStep, hz, memWrite_ok _ hl, withAccess, zeroedWord]
  | zeroSkip hp hz hf => simp [engineStep, hp, zfillStep, Nat.not_lt.mpr hz, afterZfill, hf]
  | zeroDone hp hz hf => simp [engineStep, hp, zfillStep, Nat.not_lt.mpr hz, afterZfill, hf]
  | complete hp he => simp only [engineStep, hp, convStep, if_pos he]
  | truncate hp hr hw hg => simp [engineStep, hp, convStep, hr, hw, hg]
  | pixel hp hr hw hg hl => simp [engineStep, hp, convStep, hr, hw, hg, convertPixel_eq hg, hl, convertedPixel]

/-- An engine step refuses nothing. -/
theorem engineStep_ne_refused (s : State) (r : Refusal) : engineStep s ≠ .refused r := by
  unfold engineStep
  split
  · nofun
  · unfold zfillStep memWrite
    split
    · split <;> nofun
    · nofun
  · unfold convStep
    split
    · nofun
    · split
      · nofun
      · rename_i hg
        rw [convertPixel_eq (Bool.eq_false_iff.mpr hg)]
        split <;> nofun

/-- Where the sequencer's invariants hold, every engine step answers a next state (41_pixel_walk R130). -/
theorem engineStep_next {s : State} (h : SequencerInv s) : ∃ t, engineStep s = .next t := by
  cases hp : s.phase with
  | idle => exact ⟨_, engineStep_of_engineMove (.idle hp)⟩
  | zfill =>
    have hb := h.zfillInBounds hp
    by_cases hz : s.zidx.toNat < npix s
    · exact ⟨_, engineStep_of_engineMove (.zero hp hz (by omega))⟩
    · by_cases hf : s.formatTag = Config.fmtYuv420
      · exact ⟨_, engineStep_of_engineMove (.zeroDone hp (by omega) hf)⟩
      · exact ⟨_, engineStep_of_engineMove (.zeroSkip hp (by omega) hf)⟩
  | conv =>
    by_cases hr : curRow s = frameH s
    · exact ⟨_, engineStep_of_engineMove (.complete hp (.inl hr))⟩
    · by_cases hw : frameW s = 0
      · exact ⟨_, engineStep_of_engineMove (.complete hp (.inr hw))⟩
      · cases hg : guardTrips s (curRow s) (curCol s) with
        | true => exact ⟨_, engineStep_of_engineMove (.truncate hp hr hw hg)⟩
        | false =>
          have hr' : curRow s < frameH s := Nat.lt_of_le_of_ne (h.rowInFrame hp) hr
          have hc := h.colInRow hp hr' (Nat.pos_of_ne_zero hw)
          have hl := lumaCursor_lt_npix hr' hc
          have ho := h.outLongEnough (by simp [hp])
          exact ⟨_, engineStep_of_engineMove (.pixel hp hr hw hg (by omega))⟩

end Sys2Proof.Machine
end

