-- ==== Sys2Proof/Laws/PerInstr.lean ====
section
/-! SUPPORT. Statements about every instruction as syntax, one lemma per constructor. -/

namespace Sys2Proof.Laws

/-- The decoder reads back the word the encoder writes. -/
def RoundTrip.Statement (i : Instr) : Prop := decodeWord (encode i) = .ok i

theorem RoundTrip.nop : RoundTrip.Statement .nop := rfl

theorem RoundTrip.convert : RoundTrip.Statement .convert := rfl

theorem RoundTrip.convertAlloc : RoundTrip.Statement .convertAlloc := rfl

theorem RoundTrip.clearStatus : RoundTrip.Statement .clearStatus := rfl

end Sys2Proof.Laws
end

