-- ==== Sys2Proof/Laws/Step.lean ====
section
/-! SUPPORT. Everything a command, a host access and a step can do. -/

namespace Sys2Proof.Machine

/-! ### Commands -/

/-- All that a CMD write can do (40_commands R102). -/
inductive CommandMove (s : State) : State → Prop where
  /-- NOP. -/
  | nop : CommandMove s s
  /-- An ILLEGAL word. -/
  | illegal : CommandMove s (illegalCommand s)
  /-- A command a busy block rejects. -/
  | rejected (hb : s.status.busy = true) : CommandMove s (busyReject s)
  /-- CONVERT or CONVERT_ALLOC with a short OUT. -/
  | tooSmall (hb : s.status.busy = false) (hl : s.outLen.toNat < npix s) : CommandMove s (outTooSmall s)
  /-- CONVERT with another format. -/
  | skipped (hb : s.status.busy = false) (hl : npix s ≤ s.outLen.toNat) (hf : s.formatTag ≠ Config.fmtYuv420) :
    CommandMove s { s with status := s.status.formatSkipped }
  /-- CONVERT starts the pixel walk. -/
  | convert (hb : s.status.busy = false) (hl : npix s ≤ s.outLen.toNat) (hf : s.formatTag = Config.fmtYuv420) :
    CommandMove s { s with phase := .conv, row := 0, col := 0, status := s.status.started, outBefore := s.bufOut }
  /-- CONVERT_ALLOC starts the zero-fill. -/
  | alloc (hb : s.status.busy = false) (hl : npix s ≤ s.outLen.toNat) :
    CommandMove s { s with phase := .zfill, zidx := 0, status := s.status.started, outBefore := s.bufOut }
  /-- CLEAR_STATUS. -/
  | clear (hb : s.status.busy = false) : CommandMove s (clearStatus s)

/-- A command answers a next state, by one of the moves. -/
theorem exec_move (i : Instr) (s : State) : ∃ t, exec i s = .next t ∧ CommandMove s t := by
  cases i with
  | nop => exact ⟨s, rfl, .nop⟩
  | convert =>
    refine ⟨_, rfl, ?_⟩
    unfold unlessBusy convert
    split
    · rename_i hb
      exact .rejected hb
    · rename_i hb
      have hb := Bool.eq_false_iff.mpr hb
      split
      · rename_i hl
        exact .tooSmall hb hl
      · rename_i hl
        split
        · rename_i hf
          exact .skipped hb (by omega) hf
        · rename_i hf
          exact .convert hb (by omega) (by simpa using hf)
  | convertAlloc =>
    refine ⟨_, rfl, ?_⟩
    unfold unlessBusy convertAlloc
    split
    · rename_i hb
      exact .rejected hb
    · rename_i hb
      have hb := Bool.eq_false_iff.mpr hb
      split
      · rename_i hl
        exact .tooSmall hb hl
      · exact .alloc hb (by omega)
  | clearStatus =>
    refine ⟨_, rfl, ?_⟩
    unfold unlessBusy
    split
    · rename_i hb
      exact .rejected hb
    · rename_i hb
      exact .clear (Bool.eq_false_iff.mpr hb)

/-- A CMD write answers a next state, by one of the moves. -/
theorem command_move (c : Word) (s : State) : ∃ t, command c s = .next t ∧ CommandMove s t := by
  unfold command
  split
  · exact exec_move _ s
  · exact ⟨_, rfl, .illegal⟩

/-! ### Host accesses -/

/-- All that an action can do when it answers a next state. -/
inductive ActMove (s : State) : Action → State → Prop where
  /-- A turn of the engine. -/
  | engine {t : State} (h : EngineMove s t) : ActMove s .engine t
  /-- A CMD write. -/
  | command {t : State} (c : Word) (hc : Machine.command c s = .next t) (h : CommandMove s t) :
    ActMove s (.regWrite 32 0 c) t
  /-- A write to STATUS or to a reserved offset. -/
  | ignored (off : BitVec 6) (d : Word) : ActMove s (.regWrite 32 off d) s
  /-- A configuration register write that a busy block drops. -/
  | dropped (off : BitVec 6) (d : Word) (hb : s.status.busy = true) : ActMove s (.regWrite 32 off d) (setErr s errBusyReject)
  /-- A configuration register write that applies: only configuration registers change. -/
  | config (off : BitVec 6) (d : Word) (hb : s.status.busy = false) (w h : Dim) (f y a b o : Word) :
    ActMove s (.regWrite 32 off d)
      { s with width := w, height := h, formatTag := f, yCap := y, aCap := a, bCap := b, outLen := o }
  /-- A register read. -/
  | regRead (off : BitVec 6) : ActMove s (.regRead 32 off) (observe s (.reg off (regRead (regAt off) s)))
  /-- A status poll. -/
  | poll : ActMove s .poll (pollStatus s)
  /-- A host write to a plane. -/
  | planeWrite (p : Plane) (i : Word) (v : Byte) (hb : s.status.busy = false) :
    ActMove s (.planeWrite p i v) (putPlane s p i.toNat v)
  /-- A host write to OUT. -/
  | outWrite (k v : Word) (hb : s.status.busy = false) : ActMove s (.outWrite k v) (putOut s k.toNat v)
  /-- A host read of a plane. -/
  | planeRead (p : Plane) (i : Word) : ActMove s (.planeRead p i) (observe s (.plane p i (planeByte s p i.toNat)))
  /-- A host read of a word of OUT. -/
  | outRead (k : Word) : ActMove s (.outRead k) (observe s (.out k (outWord s k.toNat)))
  /-- A host read of a byte of OUT. -/
  | outByteRead (k : Word) (j : Fin 4) :
    ActMove s (.outByteRead k j) (observe s (.outByte k j (outByte s (4 * k.toNat + j.val))))

theorem regOffset_of_regAt {off : BitVec 6} {r : Reg} (h : regAt off = some r) : off = regOffset r := by
  unfold regAt at h
  repeat' split at h
  all_goals cases h
  all_goals assumption

theorem accessLegal_bits {bits : Nat} {off : BitVec 6} (h : accessLegal bits off = true) : bits = 32 := by
  simp only [accessLegal, Bool.and_eq_true, beq_iff_eq] at h
  exact h.1

/-- An action that answers a next state made one of the moves. -/
theorem actMove_of_act {a : Action} {s t : State} (h : act a s = .next t) : ActMove s a t := by
  cases a with
  | engine => exact .engine (engineMove_of_engineStep h)
  | regWrite bits off d =>
    simp only [act] at h
    split at h
    · rename_i hl
      obtain rfl := accessLegal_bits hl
      unfold regWrite at h
      split at h
      · rename_i hr
        obtain rfl : off = 0 := regOffset_of_regAt hr
        obtain ⟨u, hu, hm⟩ := command_move d s
        rw [hu] at h
        cases h
        exact .command d hu hm
      · cases h
        exact .ignored off d
      all_goals try
        unfold configWrite at h
        split at h
        · rename_i hb
          cases h
          exact .dropped off d hb
        · rename_i hb
          cases h
          exact .config off d (Bool.eq_false_iff.mpr hb) _ _ _ _ _ _ _
      cases h
      exact .ignored off d
    · cases h
  | regRead bits off =>
    simp only [act] at h
    split at h
    · rename_i hl
      obtain rfl := accessLegal_bits hl
      cases h
      exact .regRead off
    · cases h
  | poll =>
    cases h
    exact .poll
  | planeWrite p i v =>
    simp only [act, bufferWrite] at h
    split at h
    · cases h
    · rename_i hb
      cases h
      exact .planeWrite p i v (Bool.eq_false_iff.mpr hb)
  | outWrite k v =>
    simp only [act, bufferWrite] at h
    split at h
    · cases h
    · rename_i hb
      cases h
      exact .outWrite k v (Bool.eq_false_iff.mpr hb)
  | planeRead p i =>
    cases h
    exact .planeRead p i
  | outRead k =>
    cases h
    exact .outRead k
  | outByteRead k j =>
    cases h
    exact .outByteRead k j

/-! ### Steps -/

/-- All that a step can do when it answers a next state. -/
inductive StepMove (s : State) : State → Prop where
  /-- The host does nothing more and the engine goes on. -/
  | alone {t : State} (hi : s.inputs = []) (h : EngineMove s t) : StepMove s t
  /-- A reset. -/
  | reset (a : Action) (rest : List Input) (hi : s.inputs = { reset := true, act := a } :: rest) :
    StepMove s (resetBlock (withInputs s rest))
  /-- The next action of the interleaving. -/
  | act {t : State} (a : Action) (rest : List Input) (hi : s.inputs = { reset := false, act := a } :: rest)
      (h : ActMove (withInputs s rest) a t) : StepMove s t

/-- A step that answers a next state made one of the moves. -/
theorem stepMove_of_step {s t : State} (h : step s = .next t) : StepMove s t := by
  unfold step at h
  split at h
  · rename_i hi
    exact .alone hi (engineMove_of_engineStep h)
  · rename_i i rest hi
    obtain ⟨r, a⟩ := i
    cases r with
    | true =>
      cases h
      exact .reset a rest hi
    | false => exact .act a rest hi (actMove_of_act h)

/-- With no input left a step is the engine's. -/
theorem step_alone {s : State} (h : s.inputs = []) : step s = engineStep s := by
  simp only [step, h]

/-- An idle block with no input left stays as it is. -/
theorem run_idle {s : State} (n : Nat) (hp : s.phase = .idle) (hi : s.inputs = []) : run n s = .next s := by
  induction n with
  | zero => rfl
  | succ n ih => simp only [run, step_alone hi, engineStep, hp, ih]

/-- A run goes on from where its first part ended. -/
theorem run_add {a : Nat} {s t : State} (b : Nat) (h : run a s = .next t) : run (a + b) s = run b t := by
  induction a generalizing s with
  | zero =>
    cases h
    rw [Nat.zero_add]
  | succ a ih =>
    rw [Nat.add_right_comm]
    simp only [run] at *
    split at h
    · exact ih h
    · cases h
    · cases h

end Sys2Proof.Machine
end

