-- ==== Sys2Proof/Tests/Slice0.lean ====
section
/-! SUPPORT. Tests with results taken from spec/95_test_vectors.md, and a witness for the hypotheses of each statement. -/

namespace Sys2Proof.Machine.Tests

/-! ### States -/

/-- "cfg" of 95_test_vectors section 2.1: W = H = 2, the expected tag, Y_CAP = 4, A_CAP = B_CAP = 2, OUT_LEN = 4. -/
def cfg : State :=
  { State.reset with width := 2, height := 2, formatTag := Config.fmtYuv420, yCap := 4, aCap := 2, bCap := 2, outLen := 4 }

/-- cfg with another tag (vector V-C5). -/
def cfgOther : State := { cfg with formatTag := Config.fmtYuv420 ^^^ 1 }

/-- The frame of program P1: Y, A and B filled, OUT full of 0xDEADBEEF. -/
def p1 : State :=
  { cfg with
    bufY := [(0, 16), (1, 128), (2, 200), (3, 255)], bufA := [(0, 0x90), (1, 0)], bufB := [(0, 0), (1, 0x70)]
    bufOut := (((Memory.insertWord [] 0 0xDEADBEEF).insertWord 1 0xDEADBEEF).insertWord 2 0xDEADBEEF).insertWord 3 0xDEADBEEF }

/-- A conversion of program P1's frame, at pixel (r, c). -/
def walk (r c : BitVec 16) : State :=
  { p1 with phase := .conv, status := Status.reset.started, row := r, col := c, outBefore := p1.bufOut }

/-- A zero-fill of program P1's OUT, at word `z`. -/
def fill (z : BitVec 32) : State :=
  { p1 with phase := .zfill, status := Status.reset.started, zidx := z, outBefore := p1.bufOut }

/-- The state of an outcome, or reset where it stopped. -/
def after : Host.Outcome State Fault Refusal → State
  | .next s => s
  | .fault _ => State.reset
  | .refused _ => State.reset

theorem other_tag_ne : Config.fmtYuv420 ^^^ 1 ≠ Config.fmtYuv420 := by
  intro h
  have h0 := congrArg (fun w : Word => w.getLsbD 0) h
  simp at h0

/-! ### What a check refuses -/

theorem test_narrow_access_illFormed : (Script.plain (.regWrite 16 0x00 1)).wellFormed = false := by decide

theorem test_misaligned_access_illFormed : (Script.plain (.regRead 32 0x06)).wellFormed = false := by decide

theorem test_instr_wellFormed : Instr.convert.wellFormed = true := by decide

theorem test_unsorted_memory_illFormed : ¬ Memory.wf [(3, 0), (2, 0)] := by decide

theorem test_repeated_address_illFormed : ¬ Memory.wf [(3, 0), (3, 1)] := by decide

/-! ### Decoding: words written out from 30_encoding R72, R73 -/

theorem test_decode_nop : decodeWord 0b00000000000000000000000000000000 = .ok .nop := by decide

theorem test_decode_convert : decodeWord 0b00000000000000000000000000000001 = .ok .convert := by decide

theorem test_decode_convertAlloc : decodeWord 0b00000000000000000000000000000010 = .ok .convertAlloc := by decide

theorem test_decode_clearStatus : decodeWord 0b00000000000000000000000000000011 = .ok .clearStatus := by decide

/-- Vector V-C11. -/
theorem test_decode_opcode_4 : decodeWord 0x00000004 = .error .unknownOpcode := by decide

/-- Vector V-C10: OPC = 0 with RSV = 1 is not NOP. -/
theorem test_decode_nop_with_rsv : decodeWord 0x00000100 = .error .reservedBitsSet := by decide

/-! ### Commands -/

/-- Vector V-C12: NOP while BUSY = 1. -/
theorem test_nop_busy : (after (step { walk 0 0 with inputs := [Script.cmd .nop] })).status.word = 0x00000001 := by decide

/-- Vector V-C4. -/
theorem test_convert_accepted :
    ((after (exec .convert cfg)).status.word, (after (exec .convert cfg)).phase) = (0x00000001, Phase.conv) := by
  have h : convert cfg = { cfg with phase := .conv, row := 0, col := 0, status := cfg.status.started, outBefore := cfg.bufOut } := by
    simp [convert, cfg, npix, frameW, frameH]
  show ((convert cfg).status.word, (convert cfg).phase) = _
  rw [h]
  decide

/-- Vector V-C5: another format completes at once. -/
theorem test_convert_other_format : (after (exec .convert cfgOther)).status.word = 0x00000006 := by
  have h : convert cfgOther = { cfgOther with status := cfgOther.status.formatSkipped } := by
    simp [convert, cfgOther, cfg, npix, frameW, frameH]
  show (convert cfgOther).status.word = _
  rw [h]
  decide

/-- Vector V-C7: OUT_LEN one short, no zero-fill. -/
theorem test_convertAlloc_short_out :
    ((after (exec .convertAlloc { cfg with outLen := 3 })).status.word, (after (exec .convertAlloc { cfg with outLen := 3 })).phase) =
      (0x00000032, Phase.idle) := by decide

/-- Vector V-C13: CONVERT_ALLOC while BUSY = 1. -/
theorem test_convertAlloc_busy : (after (exec .convertAlloc (walk 0 1))).status.word = 0x00000021 := by decide

/-- Vector V-C8: STATUS 0x0000003A cleared. -/
theorem test_clearStatus :
    (after (exec .clearStatus { cfg with status := { busy := false, done := true, fmtSkip := false, trunc := true, err := 3 } })).status.word =
      0x00000000 := by decide

/-- Vector V-C14: CLEAR_STATUS while BUSY = 1 clears nothing. -/
theorem test_clearStatus_busy : (after (exec .clearStatus (walk 0 0))).status.word = 0x00000021 := by decide

/-- Vector V-C15: ILLEGAL_CMD wins over BUSY_REJECT. -/
theorem test_illegal_while_busy :
    (after (step { walk 0 0 with inputs := [Script.wr .cmd 0x000000FF] })).status.word = 0x00000011 := by decide

/-! ### Registers -/

/-- Vector V-C2: only bits 15:0 of WIDTH are stored. -/
theorem test_width_stores_16_bits :
    (after (run 2 { State.reset with inputs := [Script.wr .width 0x12345678, Script.rd .width] })).observed =
      [.reg 0x08 0x00005678] := by decide

/-- Vector V-C16: WIDTH keeps its value while BUSY = 1. -/
theorem test_width_write_busy :
    ((after (step { walk 0 0 with width := 4, inputs := [Script.wr .width 2] })).width,
      (after (step { walk 0 0 with width := 4, inputs := [Script.wr .width 2] })).status.word) = (4, 0x00000021) := by decide

/-! ### The engine -/

/-- Program P1, k = 1, row by row: Y = 128, u = 16, v = -16 gives 0x007B9BB5, and the cursor goes to row 1. -/
theorem test_pixel_p1 :
    (outWord (after (step (walk 0 1))) 1, (after (step (walk 0 1))).row, (after (step (walk 0 1))).col) =
      (0x007B9BB5, 1, 0) := by decide

/-- Program P1, k = 3: B[1], not B[0], gives v. -/
theorem test_pixel_reads_b_at_plus_one : outWord (after (step (walk 1 1))) 3 = 0x00FFFFFF := by decide

/-- Vector V-G11: A_CAP = B_CAP = 1 trips at the first pixel. -/
theorem test_guard_trips :
    ((after (step { walk 0 0 with aCap := 1, bCap := 1 })).status.word, (after (step { walk 0 0 with aCap := 1, bCap := 1 })).row) =
      (0x00000009, 1) := by decide

/-- Section 2.2: W = 5, H = 3, pixel (2, 4) reads Y[14], A[9], B[10]. -/
theorem test_cursors_5x3 :
    (lumaCursor { cfg with width := 5, height := 3 } 2 4, chromaAddrA { cfg with width := 5, height := 3 } 2 4,
      chromaAddrB { cfg with width := 5, height := 3 } 2 4) = (14, 9, 10) := by decide

/-- Section 2.5: (y, u, v) = (145, -90, -74) gives 0x0032FF00. -/
theorem test_pixel_word : pixelWord 145 38 54 = 0x0032FF00 := by decide

/-- Section 2.6: (131072, 65536, 204800) packs to 0x008040C8. -/
theorem test_pack : pack 131072 65536 204800 = 0x008040C8 := by decide

/-- 43_output_packer R162: the saturation bound goes with the scale. -/
theorem test_bound_of_scale : satMax = 2 ^ (scaleBits + 8) - 1 := by decide

/-- Section 2.8: a zero-fill step zeroes its own word and keeps the next. -/
theorem test_zero_fill :
    (outWord (after (step (fill 2))) 2, outWord (after (step (fill 2))) 3, (after (step (fill 2))).zidx) =
      (0, 0xDEADBEEF, 3) := by decide

/-- Section 2.9: the byte view of 0x00FB6D54. -/
theorem test_byte_view :
    (byteView 0x00FB6D54 0, byteView 0x00FB6D54 1, byteView 0x00FB6D54 2, byteView 0x00FB6D54 3) =
      ((0x54 : Byte), (0x6D : Byte), (0xFB : Byte), (0x00 : Byte)) := by decide

/-- 10_state R45: STATUS reads 0 after a reset while BUSY = 1. -/
theorem test_reset_busy_status :
    (after (step { walk 1 0 with inputs := [Script.assertReset] })).status.word = 0 := by decide

/-- 70_reset_and_hazards R200: a reset of an idle block keeps OUT. -/
theorem test_reset_idle_keeps_out :
    outWord (after (step { p1 with inputs := [Script.assertReset] })) 3 = 0xDEADBEEF := by decide

/-- 70_reset_and_hazards R201: word 0 was zero-filled before the reset, so afterwards it is 0 or 0xDEADBEEF again. -/
theorem test_reset_busy_word :
    outWord (resetBlock (after (step (fill 0)))) 0 ∈ ([0, 0xDEADBEEF] : List Word) := by
  rw [outWord_resetBlock]
  split <;> decide

/-- Program P1, k = 1, where the interleaving gives the turn to the engine. -/
theorem test_engine_turn_in_conv :
    outWord (after (step { walk 0 1 with inputs := [Script.engineTurn, Script.rd .status] })) 1 = 0x007B9BB5 := by decide

/-- Section 2.8: a turn of the engine while OUT is zero-filled. -/
theorem test_engine_turn_in_zfill :
    (after (step { fill 2 with inputs := [Script.engineTurn, Script.rd .status] })).zidx = 3 := by decide

/-! ### Witnesses: each statement's hypotheses are met by a concrete state -/

theorem walk_inv_start : SequencerInv (walk 0 0) := ⟨by decide, by decide, by decide, by decide, by decide⟩

theorem walk_inv_row_end : SequencerInv (walk 0 1) := ⟨by decide, by decide, by decide, by decide, by decide⟩

theorem walk_cursorInv : CursorInv (walk 0 1) := ⟨by decide, by decide, by decide, by decide, by decide⟩

theorem walk_statusInv : StatusInv (walk 0 1) := ⟨by decide, by decide⟩

theorem walk_formatInv : FormatInv (walk 0 1) := fun _ => rfl

theorem fill_inv_start : SequencerInv (fill 0) := ⟨by decide, by decide, by decide, by decide, by decide⟩

theorem fill_inv_end : SequencerInv (fill 4) := ⟨by decide, by decide, by decide, by decide, by decide⟩

theorem witness_StepRunsDecodedCommand :
    ({ cfg with inputs := [Script.wr .cmd 2] } : State).inputs = Script.wr .cmd 2 :: [] ∧
      Instr.convertAlloc.wellFormed = true ∧ decodeWord 2 = .ok .convertAlloc := by decide

theorem witness_IllegalCommandSetsOnlyErr :
    ({ walk 0 0 with inputs := [Script.wr .cmd 0x104] } : State).inputs = Script.wr .cmd 0x104 :: [] ∧
      (decodeWord 0x104).toOption = none := by decide

theorem witness_NopChangesNothing : opcField 0x100 = 0 ∧ rsvField 0x100 ≠ 0 := by decide

theorem witness_ConvertStartsPixelWalk :
    cfg.status.busy = false ∧ npix cfg ≤ cfg.outLen.toNat ∧ cfg.formatTag = Config.fmtYuv420 :=
  ⟨by decide, by decide, rfl⟩

theorem witness_ConvertSkipsOtherFormat :
    cfgOther.status.busy = false ∧ npix cfgOther ≤ cfgOther.outLen.toNat ∧ cfgOther.formatTag ≠ Config.fmtYuv420 :=
  ⟨by decide, by decide, other_tag_ne⟩

theorem witness_ConvertAllocStartsZeroFill : cfgOther.status.busy = false ∧ npix cfgOther ≤ cfgOther.outLen.toNat := by decide

theorem witness_ShortOutputIsRejected :
    ({ cfg with outLen := 3 } : State).status.busy = false ∧ (3 : Word).toNat < npix { cfg with outLen := 3 } := by decide

theorem witness_ClearStatusClearsStickyFields : cfg.status.busy = false ∧ (walk 0 0).status.busy = true := by decide

theorem witness_BusyBlockRejects :
    (walk 0 0).status.busy = true ∧ decodeWord 3 = .ok .clearStatus ∧ Instr.clearStatus ≠ .nop ∧
      Reg.outLen ≠ .cmd ∧ Reg.outLen ≠ .status ∧ Reg.width ≠ .cmd ∧ Reg.width ≠ .status := by decide

theorem witness_CommandsLeaveBuffersAndConfiguration :
    exec .nop (walk 0 0) = .next (walk 0 0) ∧ exec .convert cfg = .next (convert cfg) ∧
      exec .convertAlloc cfg = .next (convertAlloc cfg) ∧ exec .clearStatus cfg = .next (clearStatus cfg) ∧
      (walk 0 0).status.busy = true :=
  ⟨rfl, rfl, rfl, rfl, rfl⟩

theorem witness_RegisterWritesApplyWhenIdle : cfg.status.busy = false := by decide

theorem witness_ReservedOffsetsReadZero :
    (0x24 : BitVec 6) ∈ ([0x24, 0x28, 0x2C, 0x30, 0x34, 0x38, 0x3C] : List (BitVec 6)) ∧
      (0x3C : BitVec 6) ∈ ([0x24, 0x28, 0x2C, 0x30, 0x34, 0x38, 0x3C] : List (BitVec 6)) := by decide

theorem witness_RegisterReadsReturnStoredValues : (0x3C : BitVec 6).toNat % 4 = 0 := by decide

theorem witness_OtherRegisterAccessesAreRefused : (16 : Nat) ≠ 32 ∧ (0x3E : BitVec 6).toNat % 4 ≠ 0 := by decide

theorem witness_BufferWritesWhileBusyAreRefused : (fill 0).status.busy = true := by decide

theorem witness_PlaneWriteStoresOneByte : p1.status.busy = false := by decide

theorem witness_OutWriteStoresOneWord :
    p1.status.busy = false ∧ 4 * (1 : Word).toNat + 4 ≤ 8 ∧ 3 < 4 * (1 : Word).toNat := by decide

theorem witness_ChannelsAreMonotone : (0 : Byte).toNat ≤ (255 : Byte).toNat ∧ (-128 : Int) ≤ 127 := by decide

theorem witness_IdleBlockDoesNothing :
    cfg.phase = .idle ∧ cfg.inputs = [] ∧
      ({ cfg with inputs := [Script.engineTurn] } : State).inputs = Script.engineTurn :: [] := by decide

theorem witness_EngineTurnRunsEngineStep : (walk 0 0).inputs = [] ∧ (fill 0).inputs = [] := by decide

theorem witness_EngineStaysInBounds :
    SequencerInv (walk 0 1) ∧ (walk 0 1).phase = .conv ∧ curRow (walk 0 1) ≠ frameH (walk 0 1) ∧ frameW (walk 0 1) ≠ 0 ∧
      guardTrips (walk 0 1) (curRow (walk 0 1)) (curCol (walk 0 1)) = false :=
  ⟨walk_inv_row_end, by decide, by decide, by decide, by decide⟩

/-- The chroma half at its boundary CCAP = uvPos + 1, and the luma half at its boundary Y_CAP = k. -/
theorem witness_GuardTripAbandonsRow :
    ((walk 0 0).phase = .conv ∧ curRow (walk 0 0) ≠ frameH (walk 0 0) ∧ frameW (walk 0 0) ≠ 0 ∧
      guardTrips { walk 0 0 with aCap := 1 } 0 0 = true) ∧
    ((walk 1 0).phase = .conv ∧ curRow (walk 1 0) ≠ frameH (walk 1 0) ∧ frameW (walk 1 0) ≠ 0 ∧
      (walk 1 0).row.toNat * (walk 1 0).width.toNat + (walk 1 0).col.toNat ≥ (2 : Word).toNat ∧
      guardTrips { walk 1 0 with yCap := 2 } 1 0 = true) := by decide

/-- Clause by clause: a pixel inside a row, and the last pixel of a row. -/
theorem witness_ConvertedPixelIsStoredAtItsCursor :
    (SequencerInv (walk 0 0) ∧ (walk 0 0).phase = .conv ∧ curRow (walk 0 0) ≠ frameH (walk 0 0) ∧ frameW (walk 0 0) ≠ 0 ∧
      guardTrips (walk 0 0) (curRow (walk 0 0)) (curCol (walk 0 0)) = false ∧
      (walk 0 0).col.toNat + 1 < (walk 0 0).width.toNat) ∧
    (SequencerInv (walk 0 1) ∧ (walk 0 1).phase = .conv ∧ curRow (walk 0 1) ≠ frameH (walk 0 1) ∧ frameW (walk 0 1) ≠ 0 ∧
      guardTrips (walk 0 1) (curRow (walk 0 1)) (curCol (walk 0 1)) = false ∧
      (walk 0 1).col.toNat + 1 = (walk 0 1).width.toNat) :=
  ⟨⟨walk_inv_start, by decide, by decide, by decide, by decide, by decide⟩,
    ⟨walk_inv_row_end, by decide, by decide, by decide, by decide, by decide⟩⟩

theorem witness_WalkCompletes :
    ((walk 2 0).phase = .conv ∧ (walk 2 0).row.toNat = (walk 2 0).height.toNat) ∧
      ({ walk 0 0 with width := 0 } : State).phase = .conv ∧ ({ walk 0 0 with width := 0 } : State).width = 0 := by decide

/-- Clause by clause: a word to zero, and the end of the phase with the expected tag and with another. -/
theorem witness_ZeroFillStepZeroesOneWord :
    (SequencerInv (fill 3) ∧ (fill 3).phase = .zfill ∧ (fill 3).zidx.toNat < npix (fill 3)) ∧
    (SequencerInv (fill 4) ∧ (fill 4).phase = .zfill ∧ npix (fill 4) ≤ (fill 4).zidx.toNat ∧
      (fill 4).formatTag = Config.fmtYuv420) ∧
    (SequencerInv { fill 4 with formatTag := Config.fmtYuv420 ^^^ 1 } ∧
      npix { fill 4 with formatTag := Config.fmtYuv420 ^^^ 1 } ≤ (fill 4).zidx.toNat ∧
      Config.fmtYuv420 ^^^ 1 ≠ Config.fmtYuv420) :=
  ⟨⟨⟨by decide, by decide, by decide, by decide, by decide⟩, by decide, by decide⟩,
    ⟨fill_inv_end, by decide, by decide, rfl⟩,
    ⟨⟨by decide, by decide, by decide, by decide, by decide⟩, by decide, other_tag_ne⟩⟩

/-- Vector V-G5 (4 × 4, CCAP = 7): row 2 trips first at column 2. Vector V-G4 (Y_CAP = 10) trips the luma half at (2, 2).
With CCAP = 3 the odd row 1 trips at column 2. -/
theorem witness_TruncationOfLaterRows :
    (2 < frameW { cfg with width := 4, height := 4, yCap := 16, aCap := 8, bCap := 7 } ∧
      uvPos { cfg with width := 4, height := 4, yCap := 16, aCap := 8, bCap := 7 } 2 2 + 1 ≥
        ccap { cfg with width := 4, height := 4, yCap := 16, aCap := 8, bCap := 7 } ∧
      (∀ j' < 2, guardTrips { cfg with width := 4, height := 4, yCap := 16, aCap := 8, bCap := 7 } 2 j' = false) ∧
      lumaCursor { cfg with width := 4, height := 4, yCap := 16 } 3 1 < (16 : Word).toNat) ∧
    (2 < frameW { cfg with width := 4, height := 4, yCap := 10 } ∧
      lumaCursor { cfg with width := 4, height := 4, yCap := 10 } 2 2 ≥ (10 : Word).toNat) ∧
    (2 < frameW { cfg with width := 4, height := 4, aCap := 3, bCap := 3 } ∧
      uvPos { cfg with width := 4, height := 4, aCap := 3, bCap := 3 } 1 2 + 1 ≥
        ccap { cfg with width := 4, height := 4, aCap := 3, bCap := 3 }) := by decide

theorem witness_FullConversionCondition :
    0 < npix cfg ∧ frameW cfg % 2 = 0 ∧ frameH cfg % 2 = 0 ∧ npix cfg ≤ cfg.yCap.toNat := by decide

theorem witness_OperationsTerminate :
    (SequencerInv (walk 0 1) ∧ (walk 0 1).inputs = [] ∧ (walk 0 1).phase = .conv) ∧
      (SequencerInv (fill 0) ∧ (fill 0).inputs = [] ∧ (fill 0).phase = .zfill ∧ (fill 0).zidx = 0) ∧
      SequencerInv (fill 4) ∧ (fill 4).inputs = [] ∧ (fill 4).phase = .zfill ∧ (fill 4).zidx.toNat = npix (fill 4) :=
  ⟨⟨walk_inv_row_end, by decide, by decide⟩, ⟨fill_inv_start, by decide, by decide, by decide⟩,
    fill_inv_end, by decide, by decide, by decide⟩

theorem witness_ZeroFillPhase :
    SequencerInv (fill 0) ∧ (fill 0).phase = .zfill ∧ (fill 0).zidx = 0 ∧ (fill 0).inputs = [] :=
  ⟨fill_inv_start, by decide, by decide, by decide⟩

/-- Program P1 ends after 5 engine steps. -/
theorem witness_ConversionWritesExactlyUnguardedPixels :
    SequencerInv (walk 0 0) ∧ (walk 0 0).phase = .conv ∧ (walk 0 0).row = 0 ∧ (walk 0 0).col = 0 ∧ (walk 0 0).inputs = [] ∧
      (∃ t, run 5 (walk 0 0) = .next t ∧ t.phase = .idle) :=
  ⟨walk_inv_start, by decide, by decide, by decide, by decide, _, rfl, rfl⟩

/-- Two conversions of P1's frame whose OUT differ, and, for the zero-fill, program P3's case of another tag. -/
theorem witness_OutputDependsOnlyOnFrame :
    (SequencerInv (walk 0 0) ∧ SequencerInv { walk 0 0 with bufOut := [] } ∧
      SameFrame (walk 0 0) { walk 0 0 with bufOut := [] } ∧ (walk 0 0).inputs = [] ∧ (walk 0 0).phase = .conv ∧
      (walk 0 0).row = 0 ∧ (walk 0 0).col = 0 ∧ guardTrips (walk 0 0) 1 1 = false ∧
      (∃ t, run 5 (walk 0 0) = .next t ∧ t.phase = .idle) ∧
      (∃ t, run 5 { walk 0 0 with bufOut := [] } = .next t ∧ t.phase = .idle)) ∧
    SequencerInv { fill 0 with formatTag := Config.fmtYuv420 ^^^ 1 } ∧ (fill 0).phase = .zfill ∧ (fill 0).zidx = 0 ∧
      (fill 0).inputs = [] ∧
      (∃ t, run 5 { fill 0 with formatTag := Config.fmtYuv420 ^^^ 1 } = .next t ∧ t.phase = .idle) := by
  refine ⟨⟨walk_inv_start, ⟨by decide, by decide, by decide, by decide, by decide⟩,
    ⟨rfl, rfl, rfl, rfl, rfl, rfl, rfl, fun p _ => by cases p <;> rfl⟩, rfl, rfl, rfl, rfl, by decide,
    ⟨_, rfl, rfl⟩, ⟨_, rfl, rfl⟩⟩, ⟨by decide, by decide, by decide, by decide, by decide⟩, rfl, rfl, rfl, ?_⟩
  obtain ⟨t, ht, hp, hz, hi, hf⟩ : ∃ t, run 4 { fill 0 with formatTag := Config.fmtYuv420 ^^^ 1 } = .next t ∧
      t.phase = .zfill ∧ npix t ≤ t.zidx.toNat ∧ t.inputs = [] ∧ t.formatTag = Config.fmtYuv420 ^^^ 1 :=
    ⟨_, rfl, rfl, by decide, rfl, rfl⟩
  have hm := engineStep_of_engineMove (.zeroSkip hp hz (by rw [hf]; exact other_tag_ne))
  exact ⟨_, by rw [run_add 1 ht]; simp only [run, step_alone hi, hm]; rfl, rfl⟩

theorem witness_PollEnds :
    SequencerInv { walk 0 1 with inputs := [Script.poll] } ∧
      ({ walk 0 1 with inputs := [Script.poll] } : State).inputs = [Script.poll] :=
  ⟨⟨by decide, by decide, by decide, by decide, by decide⟩, rfl⟩

theorem witness_RunsWithoutBufferWritesNeverStop :
    SequencerInv { walk 0 1 with inputs := [Script.rd .status, Script.engineTurn, Script.assertReset] } ∧
      NonWritingInputs { walk 0 1 with inputs := [Script.rd .status, Script.engineTurn, Script.assertReset] } :=
  ⟨⟨by decide, by decide, by decide, by decide, by decide⟩, by unfold NonWritingInputs; decide⟩

theorem witness_NonWritingInputsKeepRunning :
    SequencerInv { walk 0 1 with inputs := [Script.poll] } ∧ NonWritingInputs { walk 0 1 with inputs := [Script.poll] } :=
  ⟨⟨by decide, by decide, by decide, by decide, by decide⟩, by unfold NonWritingInputs; decide⟩

/-- Clause by clause: a buffer write at BUSY = 0 goes on and one at BUSY = 1 does not, a register access at an offset that
is no multiple of 4 does not go on, and the same access met by a reset, and no input at all, do. -/
theorem witness_StepStopsExactlyOnBrokenDuties :
    (SequencerInv { p1 with inputs := [Script.plain (.planeWrite .y 0 7)] } ∧
      ∃ t, step { p1 with inputs := [Script.plain (.planeWrite .y 0 7)] } = .next t) ∧
    (SequencerInv { walk 0 1 with inputs := [Script.plain (.planeWrite .y 0 7)] } ∧
      step { walk 0 1 with inputs := [Script.plain (.planeWrite .y 0 7)] } = .refused .bufferWriteWhileBusy) ∧
    (SequencerInv { p1 with inputs := [Script.plain (.regRead 32 0x06)] } ∧
      step { p1 with inputs := [Script.plain (.regRead 32 0x06)] } = .refused (.registerAccess 32 0x06)) ∧
    (SequencerInv { walk 0 1 with inputs := [{ reset := true, act := .regRead 32 0x06 }] } ∧
      ∃ t, step { walk 0 1 with inputs := [{ reset := true, act := .regRead 32 0x06 }] } = .next t) ∧
    (SequencerInv (walk 0 1) ∧ (walk 0 1).inputs = [] ∧ ∃ t, step (walk 0 1) = .next t) :=
  ⟨⟨⟨by decide, by decide, by decide, by decide, by decide⟩, _, rfl⟩,
    ⟨⟨by decide, by decide, by decide, by decide, by decide⟩, rfl⟩,
    ⟨⟨by decide, by decide, by decide, by decide, by decide⟩, rfl⟩,
    ⟨⟨by decide, by decide, by decide, by decide, by decide⟩, _, rfl⟩,
    walk_inv_row_end, rfl, _, rfl⟩

/-- P1's frame cut to its first pixel. -/
def onePixel : State := { p1 with width := 1, height := 1 }

/-- The conversion of `onePixel` after its pixel, and before its end. -/
def onePixelDone : State :=
  { putOut onePixel 0 (pixelValue onePixel 0 0) with
    phase := .conv, row := 1, status := Status.reset.started, outBefore := onePixel.bufOut }

theorem p1_sameFrame_walk : SameFrame p1 (walk 0 0) :=
  ⟨rfl, rfl, rfl, rfl, rfl, rfl, rfl, fun p _ => by cases p <;> rfl⟩

theorem p1_sameFrame_fill : SameFrame p1 (fill 0) := ⟨rfl, rfl, rfl, rfl, rfl, rfl, rfl, fun p _ => by cases p <;> rfl⟩

theorem walk_progress : OpProgress false p1 (walk 0 0) where
  frame := p1_sameFrame_walk
  prior _ := rfl
  notSkipped _ := rfl
  zeroFilled := nofun
  format _ := rfl
  passed _ i j _ _ h := by simp [cursorPassed, curRow, curCol, walk] at h
  ahead _ _ _ := rfl
  truncated _ := by simp [cursorPassed, curRow, curCol, walk, Status.started, Status.reset]

theorem fill_progress : OpProgress true p1 (fill 0) where
  frame := p1_sameFrame_fill
  prior _ := rfl
  notSkipped _ := rfl
  zeroFilled _ := ⟨rfl, rfl, fun _ => rfl⟩
  format := nofun
  passed := nofun
  ahead := nofun
  truncated := nofun

theorem onePixelDone_progress : OpProgress false onePixel onePixelDone where
  frame := ⟨rfl, rfl, rfl, rfl, rfl, rfl, rfl, fun p _ => by cases p <;> rfl⟩
  prior _ := rfl
  notSkipped _ := rfl
  zeroFilled := nofun
  format _ := rfl
  passed _ i j hi hj _ := by
    obtain rfl : i = 0 := Nat.lt_one_iff.mp hi
    obtain rfl : j = 0 := Nat.lt_one_iff.mp hj
    exact (outWord_putOut onePixel 0 0 _).trans (if_pos rfl)
  ahead _ k hk := (outWord_putOut onePixel 0 k _).trans (if_neg (by
    rintro rfl
    rcases hk with h | h <;> exact absurd h (by decide)))
  truncated _ := by
    constructor
    · nofun
    · rintro ⟨i, j, hi, hj, -, hg⟩
      obtain rfl : i = 0 := Nat.lt_one_iff.mp hi
      obtain rfl : j = 0 := Nat.lt_one_iff.mp hj
      exact absurd hg (by decide)

theorem witness_OperationStartsInProgress :
    p1.status.busy = false ∧ npix p1 ≤ p1.outLen.toNat ∧ p1.formatTag = Config.fmtYuv420 :=
  ⟨rfl, by decide, rfl⟩

/-- A pixel, and a zeroed word, from states that are under way. -/
theorem witness_OperationProgressKept :
    (OpProgress false p1 (walk 0 0) ∧ (walk 0 0).phase ≠ .idle ∧ ¬ resetNext (walk 0 0) ∧
      SequencerInv (walk 0 0) ∧ ∃ t, step (walk 0 0) = .next t ∧ t.phase ≠ .idle) ∧
    (OpProgress true p1 (fill 0) ∧ (fill 0).phase ≠ .idle ∧ ¬ resetNext (fill 0) ∧
      SequencerInv (fill 0) ∧ ∃ t, step (fill 0) = .next t ∧ t.phase ≠ .idle) :=
  ⟨⟨walk_progress, by decide, nofun, walk_inv_start, _, rfl, by decide⟩,
    ⟨fill_progress, by decide, nofun, fill_inv_start, _, rfl, by decide⟩⟩

theorem witness_OperationEndsWithItsImage :
    SequencerInv onePixelDone ∧ OpProgress false onePixel onePixelDone ∧ onePixelDone.phase ≠ .idle ∧
      ¬ resetNext onePixelDone ∧ ∃ t, step onePixelDone = .next t ∧ t.phase = .idle :=
  ⟨⟨by decide, by decide, by decide, by decide, by decide⟩, onePixelDone_progress, by decide, nofun, _, rfl, rfl⟩

/-- Clause by clause: an engine step, and a host action. -/
theorem witness_EngineStepsShrinkTheRemainder :
    (SequencerInv (walk 0 1) ∧ (walk 0 1).phase ≠ .idle ∧ ¬ resetNext (walk 0 1) ∧ engineNext (walk 0 1) ∧
      ∃ t, step (walk 0 1) = .next t) ∧
    (SequencerInv { fill 4 with inputs := [Script.rd .status] } ∧ (fill 4).phase ≠ .idle ∧
      ¬ resetNext { fill 4 with inputs := [Script.rd .status] } ∧
      ¬ engineNext { fill 4 with inputs := [Script.rd .status] } ∧
      ∃ t, step { fill 4 with inputs := [Script.rd .status] } = .next t) :=
  ⟨⟨walk_inv_row_end, by decide, nofun, .inl rfl, _, rfl⟩,
    ⟨by decide, by decide, by decide, by decide, by decide⟩, by decide,
    by simp [resetNext, Script.rd, Script.plain], by simp [engineNext, Script.rd, Script.plain], _, rfl⟩

/-- A converted pixel, from a state that meets every invariant, and no reset. -/
theorem witness_SequencerInvariantsKept :
    SequencerInv (walk 0 1) ∧ (∃ t, step (walk 0 1) = .next t) ∧ (walk 0 1).phase ≠ .idle ∧
      (∀ a rest, (walk 0 1).inputs ≠ { reset := true, act := a } :: rest) :=
  ⟨walk_inv_row_end, ⟨_, rfl⟩, by decide, nofun⟩

theorem witness_CursorsStayInFrame : SequencerInv (walk 0 1) ∧ CursorInv (walk 0 1) ∧ ∃ t, step (walk 0 1) = .next t :=
  ⟨walk_inv_row_end, walk_cursorInv, _, rfl⟩

theorem witness_StatusAndFormatInvariantsKept :
    SequencerInv (walk 0 1) ∧ StatusInv (walk 0 1) ∧ FormatInv (walk 0 1) ∧ ∃ t, step (walk 0 1) = .next t :=
  ⟨walk_inv_row_end, walk_statusInv, walk_formatInv, _, rfl⟩

theorem witness_MemoryStaysCanonical : MemoryInv (walk 0 1) ∧ ∃ t, step (walk 0 1) = .next t :=
  ⟨⟨by decide, by decide, by decide, by decide, by decide⟩, _, rfl⟩

/-- CLEAR_STATUS clears DONE. -/
theorem witness_StickyFieldsClearedOnlyByCommands :
    ({ cfg with status := cfg.status.completed } : State).status.done = true ∧
      ∃ t, step { cfg with status := cfg.status.completed, inputs := [Script.cmd .clearStatus] } = .next t ∧
        t.status.done = false :=
  ⟨by decide, _, rfl, by decide⟩

theorem witness_EngineWritesOnlyFrameWords :
    SequencerInv (walk 0 1) ∧ (∃ t, step (walk 0 1) = .next t) ∧
      (∀ p i v rest, (walk 0 1).inputs ≠ Script.plain (.planeWrite p i v) :: rest) ∧
      (∀ k v rest, (walk 0 1).inputs ≠ Script.plain (.outWrite k v) :: rest) :=
  ⟨walk_inv_row_end, ⟨_, rfl⟩, nofun, nofun⟩

/-- A reset in the middle of a conversion. -/
theorem witness_ResetClearsBlockAndKeepsPlanes :
    ({ walk 1 0 with inputs := [Script.assertReset] } : State).inputs = { reset := true, act := .engine } :: [] ∧
      (walk 1 0).status.busy = true ∧ p1.status.busy = false ∧ 4 * npix p1 ≤ 16 := by decide

end Sys2Proof.Machine.Tests
end

section
/-! PROOFS of the family 10_state: the invariants of the sequencer, of the cursors, of STATUS and of the format tag, each
kept by every step. An invariant is proved for the engine's moves and for the host's moves, and lifted to a step. -/

namespace Sys2Proof.Machine

/-! ### The registers that the invariants of the sequencer speak of -/

/-- The seven configuration registers (10_state R32 to R38). -/
structure Configuration where
  width : Dim
  height : Dim
  formatTag : Word
  yCap : Word
  aCap : Word
  bCap : Word
  outLen : Word

/-- The configuration registers of a state. -/
def configuration (s : State) : Configuration :=
  { width := s.width, height := s.height, formatTag := s.formatTag, yCap := s.yCap, aCap := s.aCap, bCap := s.bCap
    outLen := s.outLen }

/-- BUSY, the engine's state (10_state R31) and the configuration registers. -/
structure Control where
  busy : Bool
  phase : Phase
  row : BitVec 16
  col : BitVec 16
  zidx : BitVec 32
  config : Configuration

/-- The control registers of a state. -/
def control (s : State) : Control :=
  { busy := s.status.busy, phase := s.phase, row := s.row, col := s.col, zidx := s.zidx, config := configuration s }

/-- Equal configurations, register by register. -/
theorem configuration_eq_iff {s t : State} :
    configuration t = configuration s ↔
      t.width = s.width ∧ t.height = s.height ∧ t.formatTag = s.formatTag ∧ t.yCap = s.yCap ∧ t.aCap = s.aCap ∧
        t.bCap = s.bCap ∧ t.outLen = s.outLen := by
  simp only [configuration, Configuration.mk.injEq]

theorem SequencerInv.of_control_eq {s t : State} (h : SequencerInv s) (hc : control t = control s) : SequencerInv t := by
  obtain ⟨hb, hp, hr, hcol, hz, hcfg⟩ := Control.mk.inj hc
  obtain ⟨hw, hh, -, -, -, -, ho⟩ := configuration_eq_iff.mp hcfg
  obtain ⟨ha, hrow, hcolumn, hfill, hout⟩ := h
  constructor <;> simpa only [curRow, curCol, frameH, frameW, npix, hb, hp, hr, hcol, hz, hw, hh, ho]

theorem CursorInv.of_control_eq {s t : State} (h : CursorInv s) (hc : control t = control s) : CursorInv t := by
  obtain ⟨-, hp, hr, hcol, hz, hcfg⟩ := Control.mk.inj hc
  obtain ⟨hw, hh, -⟩ := configuration_eq_iff.mp hcfg
  obtain ⟨hrow, hcolumn, hzidx, hidle, hfill⟩ := h
  constructor <;> simpa only [curRow, curCol, frameH, frameW, npix, hp, hr, hcol, hz, hw, hh]

theorem FormatInv.of_control_eq {s t : State} (h : FormatInv s) (hc : control t = control s) : FormatInv t := by
  obtain ⟨-, hp, -, -, -, hcfg⟩ := Control.mk.inj hc
  obtain ⟨-, -, hf, -⟩ := configuration_eq_iff.mp hcfg
  simpa only [FormatInv, hp, hf]

/-! ### What a host action does to the control registers -/

/-- All that an action other than a turn of the engine can do to the control registers. -/
inductive HostMove (s : State) : State → Prop where
  /-- It leaves them as they are. -/
  | same {t : State} (hc : control t = control s) : HostMove s t
  /-- A configuration register write that applies. -/
  | config (hb : s.status.busy = false) (w h : Dim) (f y a b o : Word) :
    HostMove s { s with width := w, height := h, formatTag := f, yCap := y, aCap := a, bCap := b, outLen := o }
  /-- CONVERT starts the pixel walk. -/
  | convert (hb : s.status.busy = false) (hl : npix s ≤ s.outLen.toNat) (hf : s.formatTag = Config.fmtYuv420) :
    HostMove s { s with phase := .conv, row := 0, col := 0, status := s.status.started, outBefore := s.bufOut }
  /-- CONVERT_ALLOC starts the zero-fill. -/
  | alloc (hb : s.status.busy = false) (hl : npix s ≤ s.outLen.toNat) :
    HostMove s { s with phase := .zfill, zidx := 0, status := s.status.started, outBefore := s.bufOut }

theorem CommandMove.hostMove {s t : State} (h : CommandMove s t) : HostMove s t := by
  cases h with
  | convert hb hl hf => exact .convert hb hl hf
  | alloc hb hl => exact .alloc hb hl
  | nop | illegal | rejected | tooSmall | skipped | clear => exact .same rfl

/-- An action is a turn of the engine or a move of the host. -/
theorem ActMove.engine_or_host {s t : State} {a : Action} (h : ActMove s a t) : EngineMove s t ∨ HostMove s t := by
  cases h with
  | engine h => exact .inl h
  | command c hc h => exact .inr h.hostMove
  | config off d hb w h f y a b o => exact .inr (.config hb w h f y a b o)
  | ignored | dropped | regRead | poll | planeWrite | outWrite | planeRead | outRead | outByteRead => exact .inr (.same rfl)

/-- A predicate that holds after every reset, and that the moves of the engine and of the host keep, is kept by every
step. -/
theorem StepMove.keeps {P : State → Prop} (hreset : ∀ u, P (resetBlock u)) (hengine : ∀ u v, EngineMove u v → P u → P v)
    (hhost : ∀ u v, HostMove u v → P u → P v) {s t : State} (hstep : StepMove s t) (h : P s) : P t := by
  cases hstep with
  | alone hi hm => exact hengine s t hm h
  | reset a rest hi => exact hreset _
  | act a rest hi hm =>
    have hu : P (withInputs s rest) := hhost s _ (.same rfl) h
    rcases hm.engine_or_host with hm | hm
    · exact hengine _ t hm hu
    · exact hhost _ t hm hu

/-! ### The cursors after an engine step -/

@[simp] theorem frameW_convertedPixel (s : State) : frameW (convertedPixel s) = frameW s := rfl
@[simp] theorem frameH_convertedPixel (s : State) : frameH (convertedPixel s) = frameH s := rfl

/-- ROW does not wrap while it is below H. -/
theorem row_succ_toNat {s : State} (hr : curRow s < frameH s) : (s.row + 1).toNat = curRow s + 1 := by
  have hh := s.height.isLt
  simp only [curRow, frameH] at *
  exact BitVec.toNat_add_of_lt (by simp; omega)

/-- COL does not wrap while the next column is in the row. -/
theorem col_succ_toNat {s : State} (hc : curCol s + 1 < frameW s) : (s.col + 1).toNat = curCol s + 1 := by
  have hw := s.width.isLt
  simp only [curCol, frameW] at *
  exact BitVec.toNat_add_of_lt (by simp; omega)

/-- ZIDX does not wrap while it is below NPIX. -/
theorem zidx_zeroedWord_toNat {s : State} (hz : s.zidx.toNat < npix s) :
    (zeroedWord s).zidx.toNat = s.zidx.toNat + 1 := by
  have hn := npix_le s
  exact BitVec.toNat_add_of_lt (by simp; omega)

theorem curRow_truncateRow {s : State} (hr : curRow s < frameH s) : curRow (truncateRow s) = curRow s + 1 :=
  row_succ_toNat hr

theorem curRow_convertedPixel {s : State} (hr : curRow s < frameH s) :
    curRow (convertedPixel s) = if curCol s + 1 < frameW s then curRow s else curRow s + 1 := by
  rw [← row_succ_toNat hr]
  exact apply_ite BitVec.toNat ..

theorem curCol_convertedPixel (s : State) :
    curCol (convertedPixel s) = if curCol s + 1 < frameW s then curCol s + 1 else 0 := by
  show (if curCol s + 1 < frameW s then s.col + 1 else 0).toNat = _
  split
  · exact col_succ_toNat ‹_›
  · rfl

/-! ### The invariants of the sequencer (10_state R46) -/

theorem SequencerInv.idle_of_not_busy {s : State} (h : SequencerInv s) (hb : s.status.busy = false) : s.phase = .idle := by
  by_contra hp
  simp [h.busyIffActive.mpr hp] at hb

/-- An idle block that says so meets the invariants, whatever its other registers hold. -/
theorem SequencerInv.of_idle {s : State} (hb : s.status.busy = false) (hp : s.phase = .idle) : SequencerInv s := by
  constructor <;> simp [hp, hb]

/-- A block in CONV: the cursor in its frame and OUT long enough are all that is asked of it. -/
theorem SequencerInv.of_conv {s : State} (hb : s.status.busy = true) (hp : s.phase = .conv) (hr : curRow s ≤ frameH s)
    (hc : curRow s < frameH s → 0 < frameW s → curCol s < frameW s) (hl : npix s ≤ s.outLen.toNat) : SequencerInv s where
  busyIffActive := by simp [hb, hp]
  rowInFrame _ := hr
  colInRow _ := hc
  zfillInBounds hz := by simp [hp] at hz
  outLongEnough _ := hl

/-- A block in ZFILL: ZIDX in the frame and OUT long enough are all that is asked of it. -/
theorem SequencerInv.of_zfill {s : State} (hb : s.status.busy = true) (hp : s.phase = .zfill) (hz : s.zidx.toNat ≤ npix s)
    (hl : npix s ≤ s.outLen.toNat) : SequencerInv s where
  busyIffActive := by simp [hb, hp]
  rowInFrame hc := by simp [hp] at hc
  colInRow hc := by simp [hp] at hc
  zfillInBounds _ := ⟨hz, hl⟩
  outLongEnough _ := hl

theorem EngineMove.sequencerInv {s t : State} (hm : EngineMove s t) (h : SequencerInv s) : SequencerInv t := by
  have busy (hp : s.phase ≠ .idle) : s.status.busy = true := h.busyIffActive.mpr hp
  have long (hp : s.phase ≠ .idle) : npix s ≤ s.outLen.toNat := h.outLongEnough hp
  cases hm with
  | idle hp => exact h
  | zero hp hz hl =>
    have hne : s.phase ≠ .idle := by simp [hp]
    have hz' : (zeroedWord s).zidx.toNat ≤ npix s := by
      rw [zidx_zeroedWord_toNat hz]
      exact hz
    exact .of_zfill (busy hne) hp hz' (long hne)
  | zeroSkip hp hz hf => exact .of_idle rfl rfl
  | zeroDone hp hz hf =>
    have hne : s.phase ≠ .idle := by simp [hp]
    exact .of_conv (busy hne) rfl (Nat.zero_le _) (fun _ hw => hw) (long hne)
  | complete hp he => exact .of_idle rfl rfl
  | truncate hp hr hw hg =>
    have hne : s.phase ≠ .idle := by simp [hp]
    have hr' : curRow s < frameH s := Nat.lt_of_le_of_ne (h.rowInFrame hp) hr
    refine .of_conv (busy hne) hp ?_ (fun _ hw => hw) (long hne)
    rw [curRow_truncateRow hr']
    exact hr'
  | pixel hp hr hw hg hl =>
    have hne : s.phase ≠ .idle := by simp [hp]
    have hr' : curRow s < frameH s := Nat.lt_of_le_of_ne (h.rowInFrame hp) hr
    refine .of_conv (busy hne) hp ?_ (fun _ hw => ?_) (long hne)
    · rw [curRow_convertedPixel hr', frameH_convertedPixel]
      split <;> omega
    · rw [curCol_convertedPixel, frameW_convertedPixel] at *
      split <;> omega

theorem HostMove.sequencerInv {s t : State} (hm : HostMove s t) (h : SequencerInv s) : SequencerInv t := by
  cases hm with
  | same hc => exact h.of_control_eq hc
  | config hb => exact .of_idle hb (h.idle_of_not_busy hb)
  | convert hb hl hf => exact .of_conv rfl rfl (Nat.zero_le _) (fun _ hw => hw) hl
  | alloc hb hl => exact .of_zfill rfl rfl (Nat.zero_le _) hl

theorem StepMove.sequencerInv {s t : State} (hm : StepMove s t) (h : SequencerInv s) : SequencerInv t :=
  hm.keeps (fun _ => .of_idle rfl rfl) (fun _ _ => EngineMove.sequencerInv) (fun _ _ => HostMove.sequencerInv) h

/-- `StepMove.keeps` beside the invariants of the sequencer, which the host's moves may need. -/
theorem StepMove.keeps_of_sequencerInv {P : State → Prop} (hreset : ∀ u, P (resetBlock u))
    (hengine : ∀ u v, EngineMove u v → P u → P v) (hhost : ∀ u v, HostMove u v → SequencerInv u → P u → P v)
    {s t : State} (hstep : StepMove s t) (hs : SequencerInv s) (h : P s) : P t :=
  (hstep.keeps (P := fun u => SequencerInv u ∧ P u) (fun u => ⟨.of_idle rfl rfl, hreset u⟩)
    (fun u v hm ⟨hs, h⟩ => ⟨hm.sequencerInv hs, hengine u v hm h⟩)
    (fun u v hm ⟨hs, h⟩ => ⟨hm.sequencerInv hs, hhost u v hm hs h⟩) ⟨hs, h⟩).2

/-! ### The configuration registers during an operation (10_state R46 (e)) -/

theorem EngineMove.configuration_eq {s t : State} (hm : EngineMove s t) : configuration t = configuration s := by
  cases hm <;> rfl

theorem HostMove.configuration_eq {s t : State} (hm : HostMove s t) (hb : s.status.busy = true) :
    configuration t = configuration s := by
  cases hm with
  | same hc => exact congrArg Control.config hc
  | config hb' => simp [hb] at hb'
  | convert | alloc => rfl

/-- Only a reset changes the configuration registers while BUSY = 1. -/
theorem StepMove.configuration_eq {s t : State} (hm : StepMove s t) (hb : s.status.busy = true)
    (hreset : ∀ a rest, s.inputs ≠ { reset := true, act := a } :: rest) : configuration t = configuration s := by
  cases hm with
  | alone hi hm => exact hm.configuration_eq
  | reset a rest hi => exact absurd hi (hreset a rest)
  | act a rest hi hm =>
    rcases hm.engine_or_host with hm | hm
    · exact hm.configuration_eq
    · exact hm.configuration_eq hb

/-- Settles O45: by the moves that a step can make. -/
theorem sequencerInvariantsKept : Obligations.SequencerInvariantsKept := by
  intro s t h hstep
  have hm := stepMove_of_step hstep
  exact ⟨hm.sequencerInv h, fun hp hreset =>
    configuration_eq_iff.mp (hm.configuration_eq (h.busyIffActive.mpr hp) hreset)⟩

/-! ### The cursors (10_state R22) -/

theorem CursorInv.of_zero {s : State} (hr : s.row = 0) (hc : s.col = 0) (hz : s.zidx = 0) : CursorInv s := by
  constructor <;> simp [curRow, curCol, hr, hc, hz]

/-- In CONV the bounds are all that is asked of the cursors. -/
theorem CursorInv.of_conv {s : State} (hp : s.phase = .conv) (hr : curRow s ≤ frameH s) (hc : curCol s ≤ frameW s - 1)
    (hz : s.zidx.toNat ≤ npix s) : CursorInv s where
  row := hr
  col := hc
  zidx := hz
  idle hi := by simp [hp] at hi
  zfill hf := by simp [hp] at hf

/-- In ZFILL the pixel cursor is 0. -/
theorem CursorInv.of_zfill {s : State} (hp : s.phase = .zfill) (hr : s.row = 0) (hc : s.col = 0)
    (hz : s.zidx.toNat ≤ npix s) : CursorInv s where
  row := by simp [curRow, hr]
  col := by simp [curCol, hc]
  zidx := hz
  idle hi := by simp [hp] at hi
  zfill _ := ⟨hr, hc⟩

theorem EngineMove.cursorInv {s t : State} (hm : EngineMove s t) (h : CursorInv s) : CursorInv t := by
  cases hm with
  | idle hp => exact h
  | zero hp hz hl =>
    obtain ⟨hr, hc⟩ := h.zfill hp
    have hz' : (zeroedWord s).zidx.toNat ≤ npix s := by
      rw [zidx_zeroedWord_toNat hz]
      exact hz
    exact .of_zfill hp hr hc hz'
  | zeroSkip hp hz hf => exact .of_zero rfl rfl rfl
  | zeroDone hp hz hf => exact .of_conv rfl (Nat.zero_le _) (Nat.zero_le _) h.zidx
  | complete hp he => exact .of_zero rfl rfl rfl
  | truncate hp hr hw hg =>
    have hr' : curRow s < frameH s := Nat.lt_of_le_of_ne h.row hr
    refine .of_conv hp ?_ (Nat.zero_le _) h.zidx
    rw [curRow_truncateRow hr']
    exact hr'
  | pixel hp hr hw hg hl =>
    have hr' : curRow s < frameH s := Nat.lt_of_le_of_ne h.row hr
    refine .of_conv hp ?_ ?_ h.zidx
    · rw [curRow_convertedPixel hr', frameH_convertedPixel]
      split <;> omega
    · rw [curCol_convertedPixel, frameW_convertedPixel]
      split <;> omega

/-- The host starts an operation, and changes W and H, only in an idle block, whose cursors are 0. -/
theorem HostMove.cursorInv {s t : State} (hm : HostMove s t) (hs : SequencerInv s) (h : CursorInv s) : CursorInv t := by
  have zero (hb : s.status.busy = false) : s.row = 0 ∧ s.col = 0 ∧ s.zidx = 0 := h.idle (hs.idle_of_not_busy hb)
  cases hm with
  | same hc => exact h.of_control_eq hc
  | config hb =>
    obtain ⟨hr, hc, hz⟩ := zero hb
    exact .of_zero hr hc hz
  | convert hb hl hf => exact .of_conv rfl (Nat.zero_le _) (Nat.zero_le _) h.zidx
  | alloc hb hl =>
    obtain ⟨hr, hc, hz⟩ := zero hb
    exact .of_zfill rfl hr hc (Nat.zero_le _)

theorem StepMove.cursorInv {s t : State} (hm : StepMove s t) (hs : SequencerInv s) (h : CursorInv s) : CursorInv t :=
  hm.keeps_of_sequencerInv (fun _ => .of_zero rfl rfl rfl) (fun _ _ => EngineMove.cursorInv)
    (fun _ _ => HostMove.cursorInv) hs h

/-- Settles O46: the cursor moves by one from inside its bounds, and the bounds change only while the cursors are 0. -/
theorem cursorsStayInFrame : Obligations.CursorsStayInFrame := by
  intro s t hs h hstep
  exact (stepMove_of_step hstep).cursorInv hs h

/-! ### When a step answers a next state -/

/-- A register write answers a next state, in either BUSY state. -/
theorem regWrite_next (r : Option Reg) (d : Word) (s : State) : ∃ t, regWrite r d s = .next t := by
  cases r with
  | none => exact ⟨_, rfl⟩
  | some r =>
    cases r with
    | cmd =>
      obtain ⟨t, ht, -⟩ := command_move d s
      exact ⟨t, ht⟩
    | status | width | height | formatTag | yCap | aCap | bCap | outLen => exact ⟨_, rfl⟩

/-- A well-formed action answers a next state, unless it is a host buffer write while BUSY = 1. -/
theorem act_next {a : Action} {s : State} (h : SequencerInv s) (hwf : a.wellFormed = true)
    (hwrite : a.writesBuffer = true → s.status.busy = false) : ∃ t, act a s = .next t := by
  cases a with
  | engine => exact engineStep_next h
  | regWrite bits off d =>
    obtain ⟨t, ht⟩ := regWrite_next (regAt off) d s
    exact ⟨t, (if_pos hwf).trans ht⟩
  | regRead bits off => exact ⟨_, if_pos hwf⟩
  | planeWrite p i v => exact ⟨_, if_neg (by simp [hwrite rfl])⟩
  | outWrite k v => exact ⟨_, if_neg (by simp [hwrite rfl])⟩
  | poll | planeRead | outRead | outByteRead => exact ⟨_, rfl⟩

/-! ### The inputs after a step -/

theorem EngineMove.inputs_eq {s t : State} (hm : EngineMove s t) : t.inputs = s.inputs := by
  cases hm <;> rfl

theorem CommandMove.inputs_eq {s t : State} (hm : CommandMove s t) : t.inputs = s.inputs := by
  cases hm <;> rfl

/-- Only a poll adds inputs, and what it adds is an engine turn and itself (log entry 6). -/
theorem ActMove.mem_inputs {s t : State} {a : Action} (hm : ActMove s a t) {i : Input} (hi : i ∈ t.inputs) :
    i ∈ s.inputs ∨ i = Script.engineTurn ∨ i = Script.poll := by
  cases hm with
  | engine hm => exact .inl (hm.inputs_eq ▸ hi)
  | command c hc hm => exact .inl (hm.inputs_eq ▸ hi)
  | poll =>
    simp only [pollStatus] at hi
    split at hi
    · simp only [List.mem_cons] at hi
      rcases hi with hi | hi | hi
      · exact .inr (.inl hi)
      · exact .inr (.inr hi)
      · exact .inl hi
    · exact .inl hi
  | ignored | dropped | config | regRead | planeWrite | outWrite | planeRead | outRead | outByteRead => exact .inl hi

/-- A step adds no input that writes a buffer or is not well formed. -/
theorem StepMove.nonWritingInputs {s t : State} (hm : StepMove s t) (h : NonWritingInputs s) : NonWritingInputs t := by
  cases hm with
  | alone hi hm =>
    intro i hit
    exact h i (hm.inputs_eq ▸ hit)
  | reset a rest hi =>
    intro i hit
    exact h i (hi ▸ List.mem_cons_of_mem _ hit)
  | act a rest hi hm =>
    intro i hit
    rcases hm.mem_inputs hit with hit | rfl | rfl
    · exact h i (hi ▸ List.mem_cons_of_mem _ hit)
    · decide
    · decide

/-- Inputs that are well formed and write no buffer let the step answer a next state. -/
theorem step_next {s : State} (h : SequencerInv s) (hin : NonWritingInputs s) : ∃ t, step s = .next t := by
  unfold step
  split
  · exact engineStep_next h
  · rename_i i rest hi
    obtain ⟨hwf, hwrite⟩ := hin i (hi ▸ List.mem_cons_self ..)
    obtain ⟨r, a⟩ := i
    cases r with
    | true => exact ⟨_, rfl⟩
    | false =>
      have hwf : a.wellFormed = true := by simpa [Input.wellFormed] using hwf
      have hwrite : a.writesBuffer = false := by simpa using hwrite
      exact act_next (h.of_control_eq rfl) hwf (by simp [hwrite])

/-- Settles O60: the step answers, and keeps both conditions. -/
theorem nonWritingInputsKeepRunning : Obligations.NonWritingInputsKeepRunning := by
  intro s h hin
  obtain ⟨t, ht⟩ := step_next h hin
  have hm := stepMove_of_step ht
  exact ⟨t, ht, hm.sequencerInv h, hm.nonWritingInputs hin⟩

/-! ### STATUS (10_state R29, 70_reset_and_hazards R213) -/

theorem StatusInv.of_status_eq {s t : State} (h : StatusInv s) (hst : t.status = s.status) : StatusInv t := by
  obtain ⟨hended, herr⟩ := h
  constructor <;> rwa [hst]

/-- At BUSY = 0 only ERR is bounded. -/
theorem StatusInv.of_not_busy {s : State} (hb : s.status.busy = false) (he : s.status.err.toNat ≤ 3) : StatusInv s where
  busyNotEnded h := by simp [hb] at h
  errCode := he

theorem StatusInv.setErr {s : State} (h : StatusInv s) {c : BitVec 4} (hc : c.toNat ≤ 3) : StatusInv (setErr s c) where
  busyNotEnded := h.busyNotEnded
  errCode := hc

theorem EngineMove.statusInv {s t : State} (hm : EngineMove s t) (h : StatusInv s) : StatusInv t := by
  cases hm with
  | idle | zero | zeroDone | pixel => exact h.of_status_eq rfl
  | zeroSkip | complete => exact .of_not_busy rfl h.errCode
  | truncate => exact ⟨h.busyNotEnded, h.errCode⟩

theorem CommandMove.statusInv {s t : State} (hm : CommandMove s t) (h : StatusInv s) : StatusInv t := by
  cases hm with
  | nop => exact h
  | illegal => exact h.setErr (by decide)
  | rejected => exact h.setErr (by decide)
  | tooSmall hb => exact .of_not_busy hb (Nat.le_refl 3)
  | skipped hb | clear hb => exact .of_not_busy hb (Nat.zero_le 3)
  | convert | alloc => exact ⟨fun _ => ⟨rfl, rfl⟩, Nat.zero_le 3⟩

theorem ActMove.statusInv {s t : State} {a : Action} (hm : ActMove s a t) (h : StatusInv s) : StatusInv t := by
  cases hm with
  | engine hm => exact hm.statusInv h
  | command c hc hm => exact hm.statusInv h
  | dropped => exact h.setErr (by decide)
  | ignored | config | regRead | poll | planeWrite | outWrite | planeRead | outRead | outByteRead => exact h.of_status_eq rfl

theorem StepMove.statusInv {s t : State} (hm : StepMove s t) (h : StatusInv s) : StatusInv t := by
  cases hm with
  | alone hi hm => exact hm.statusInv h
  | reset => exact .of_not_busy rfl (Nat.zero_le 3)
  | act a rest hi hm => exact hm.statusInv (h.of_status_eq rfl)

/-! ### The format tag (10_state R34) -/

theorem FormatInv.of_phase_ne {s : State} (hp : s.phase ≠ .conv) : FormatInv s := fun h => absurd h hp

theorem EngineMove.formatInv {s t : State} (hm : EngineMove s t) (h : FormatInv s) : FormatInv t := by
  cases hm with
  | idle | zero | truncate | pixel => exact h
  | zeroSkip | complete => exact .of_phase_ne nofun
  | zeroDone hp hz hf => exact fun _ => hf

/-- The host writes FORMAT_TAG only in an idle block. -/
theorem HostMove.formatInv {s t : State} (hm : HostMove s t) (hs : SequencerInv s) (h : FormatInv s) : FormatInv t := by
  cases hm with
  | same hc => exact h.of_control_eq hc
  | config hb => exact .of_phase_ne (by simp [hs.idle_of_not_busy hb])
  | convert hb hl hf => exact fun _ => hf
  | alloc => exact .of_phase_ne nofun

theorem StepMove.formatInv {s t : State} (hm : StepMove s t) (hs : SequencerInv s) (h : FormatInv s) : FormatInv t :=
  hm.keeps_of_sequencerInv (fun _ => .of_phase_ne nofun) (fun _ _ => EngineMove.formatInv)
    (fun _ _ => HostMove.formatInv) hs h

/-- Settles O47: by the moves that a step can make. -/
theorem statusAndFormatInvariantsKept : Obligations.StatusAndFormatInvariantsKept := by
  intro s t hs hst hf hstep
  have hm := stepMove_of_step hstep
  exact ⟨hm.statusInv hst, hm.formatInv hs hf⟩

/-! ### The sticky fields (10_state R26 to R29) -/

/-- No sticky field is cleared on the way from one STATUS to another. -/
structure StickyKept (st st' : Status) : Prop where
  done : st.done = true → st'.done = true
  fmtSkip : st.fmtSkip = true → st'.fmtSkip = true
  trunc : st.trunc = true → st'.trunc = true
  err : st.err ≠ 0 → st'.err ≠ 0

theorem StickyKept.refl (st : Status) : StickyKept st st := ⟨id, id, id, id⟩

theorem StickyKept.withErr (st : Status) {c : BitVec 4} (hc : c ≠ 0) : StickyKept st (st.withErr c) :=
  ⟨id, id, id, fun _ => hc⟩

/-- What the obligation asks about is that a sticky field has been cleared. -/
theorem not_stickyKept {st st' : Status}
    (h : (st.done = true ∧ st'.done = false) ∨ (st.fmtSkip = true ∧ st'.fmtSkip = false) ∨
      (st.trunc = true ∧ st'.trunc = false) ∨ (st.err ≠ 0 ∧ st'.err = 0)) : ¬ StickyKept st st' := by
  intro hk
  rcases h with ⟨h, h'⟩ | ⟨h, h'⟩ | ⟨h, h'⟩ | ⟨h, h'⟩
  · simp [hk.done h] at h'
  · simp [hk.fmtSkip h] at h'
  · simp [hk.trunc h] at h'
  · exact hk.err h h'

theorem EngineMove.stickyKept {s t : State} (hm : EngineMove s t) : StickyKept s.status t.status := by
  cases hm with
  | idle | zero | zeroDone | pixel => exact .refl _
  | zeroSkip => exact ⟨fun _ => rfl, fun _ => rfl, id, id⟩
  | complete => exact ⟨fun _ => rfl, id, id, id⟩
  | truncate => exact ⟨id, id, fun _ => rfl, id⟩

/-- A busy block rejects every command but NOP (40_commands R109). -/
theorem exec_of_busy {i : Instr} (hi : i ≠ .nop) {s : State} (hb : s.status.busy = true) :
    exec i s = .next (busyReject s) := by
  cases i with
  | nop => exact absurd rfl hi
  | convert | convertAlloc | clearStatus => exact congrArg Host.Outcome.next (if_pos hb)

/-- A word that decodes has RSV = 0 and the command's opcode (30_encoding R73). -/
theorem fields_of_decodeWord {c : Word} {i : Instr} (h : decodeWord c = .ok i) : rsvField c = 0 ∧ opcField c = opcode i := by
  unfold decodeWord at h
  repeat' split at h
  all_goals cases h
  all_goals exact ⟨not_not.mp ‹_›, ‹_›⟩

theorem encode_toNat (i : Instr) : (encode i).toNat = (opcode i).toNat := by
  cases i <;> rfl

/-- The only word of a command is the one the encoder writes (30_encoding R73, R78). -/
theorem eq_encode_of_decodeWord {c : Word} {i : Instr} (h : decodeWord c = .ok i) : c = encode i := by
  obtain ⟨hrsv, hopc⟩ := fields_of_decodeWord h
  have hlow : c.toNat < 256 := (rsvField_eq_zero_iff c).mp hrsv
  apply BitVec.eq_of_toNat_eq
  rw [encode_toNat, ← (opcField_eq_iff c _).mp hopc, Nat.mod_eq_of_lt hlow]

/-- A CMD write clears a sticky field only if it is a command, no NOP, that an idle block runs. -/
theorem stickyKept_of_command {c : Word} {s t : State} (h : command c s = .next t) :
    StickyKept s.status t.status ∨ (s.status.busy = false ∧ ∃ i, c = encode i ∧ i ≠ .nop) := by
  unfold command at h
  split at h
  · rename_i i hi
    by_cases hn : i = .nop
    · subst hn
      cases h
      exact .inl (.refl _)
    · cases hb : s.status.busy with
      | true =>
        rw [exec_of_busy hn hb] at h
        cases h
        exact .inl (.withErr _ (by decide))
      | false => exact .inr ⟨rfl, i, eq_encode_of_decodeWord hi, hn⟩
  · cases h
    exact .inl (.withErr _ (by decide))

theorem ActMove.stickyKept_or {s t : State} {a : Action} (hm : ActMove s a t) :
    StickyKept s.status t.status ∨
      (s.status.busy = false ∧ ∃ i, a = .regWrite 32 (regOffset .cmd) (encode i) ∧ i ≠ .nop) := by
  cases hm with
  | engine hm => exact .inl hm.stickyKept
  | command c hc hm =>
    refine (stickyKept_of_command hc).imp_right ?_
    rintro ⟨hb, i, rfl, hn⟩
    exact ⟨hb, i, rfl, hn⟩
  | dropped => exact .inl (.withErr _ (by decide))
  | ignored | config | regRead | poll | planeWrite | outWrite | planeRead | outRead | outByteRead => exact .inl (.refl _)

/-- Settles O50: every move but a reset and an accepted command keeps the sticky fields. -/
theorem stickyFieldsClearedOnlyByCommands : Obligations.StickyFieldsClearedOnlyByCommands := by
  intro s t hstep hcleared
  have hnot := not_stickyKept hcleared
  cases stepMove_of_step hstep with
  | alone hi hm => exact absurd hm.stickyKept hnot
  | reset a rest hi => exact .inl ⟨a, rest, hi⟩
  | act a rest hi hm =>
    obtain hk | ⟨hb, i, rfl, hn⟩ := hm.stickyKept_or
    · exact absurd hk hnot
    · exact .inr ⟨hb, rest, i, hi, hn⟩

/-! ### The reserved offsets and the reset state (10_state R39, R45) -/

/-- With the reset input not asserted a step is the next action. -/
theorem step_plain (s : State) (a : Action) (rest : List Input) :
    step { s with inputs := Script.plain a :: rest } = act a { s with inputs := rest } := rfl

/-- The reserved offsets are aligned, and no register is there. -/
theorem regAt_reserved {off : BitVec 6} (h : off ∈ ([0x24, 0x28, 0x2C, 0x30, 0x34, 0x38, 0x3C] : List (BitVec 6))) :
    accessLegal 32 off = true ∧ regAt off = none := by
  revert off
  decide

/-- Settles O18: no register is at a reserved offset. -/
theorem reservedOffsetsReadZero : Obligations.ReservedOffsetsReadZero := by
  intro s rest off d hoff
  obtain ⟨hlegal, hreg⟩ := regAt_reserved hoff
  constructor
  · simp only [step_plain, act, hlegal, hreg, if_true]
    rfl
  · simp only [step_plain, act, hlegal, hreg, if_true]
    rfl

/-- Settles O49: the reset state is idle, its cursors and its ERR are 0, and nothing is written to its memories. -/
theorem resetMeetsInvariants : Obligations.ResetMeetsInvariants :=
  ⟨.of_idle rfl rfl, .of_zero rfl rfl rfl, .of_not_busy rfl (Nat.zero_le _), .of_phase_ne nofun,
    .nil, .nil, .nil, .nil, .nil⟩

/-- Settles O53: register by register. -/
theorem resetStateReadsZero : Obligations.ResetStateReadsZero := by
  refine ⟨fun r => ?_, rfl, rfl, rfl, rfl⟩
  cases r <;> rfl

end Sys2Proof.Machine
end

section
/-! PROOFS of the family 20_memory: what host accesses to the buffers store and return, when a step is refused, and which
bytes a step can change. The facts about the buffers are proved for the moves of the engine and of the host, and lifted to
a step. -/

namespace Sys2Proof.Machine

/-! ### The byte view of a word (20_memory R55) -/

theorem byteView_toNat (w : Word) (j : Nat) : (byteView w j).toNat = w.toNat / 2 ^ (8 * j) % 256 := by
  simp only [byteView, BitVec.extractLsb'_toNat, Nat.shiftRight_eq_div_pow]

/-- The byte view gives back the bytes a word is made of. -/
theorem byteView_wordOfBytes (b : Fin 4 → Byte) (j : Fin 4) :
    byteView (wordOfBytes (b 0) (b 1) (b 2) (b 3)) j.val = b j := by
  ext i hi
  rw [byteView, wordOfBytes, BitVec.getElem_extractLsb']
  simp only [BitVec.getLsbD_append]
  fin_cases j
  · have h16 : i < 16 := by omega
    have h24 : i < 24 := by omega
    simp [hi, h16, h24]
  · have h16 : 8 + i < 16 := by omega
    have h24 : 8 + i < 24 := by omega
    simp [hi, h16, h24]
  · have h24 : 16 + i < 24 := by omega
    simp [hi, Nat.not_le.mpr h24]
  · simp [hi]

/-- A byte of a word of OUT in its byte view is the byte that is stored at its address. -/
theorem byteView_outWord (s : State) (k : Nat) (j : Fin 4) : byteView (outWord s k) j.val = outByte s (4 * k + j.val) :=
  byteView_wordOfBytes (fun j => outByte s (4 * k + j.val)) j

/-! ### Register accesses (20_memory R56) -/

theorem accessLegal_iff (bits : Nat) (off : BitVec 6) : accessLegal bits off = true ↔ bits = 32 ∧ off.toNat % 4 = 0 := by
  have halign : off.extractLsb' 0 2 = 0 ↔ off.toNat % 4 = 0 := by
    rw [← BitVec.toNat_inj]
    simp
  simp only [accessLegal, Bool.and_eq_true, beq_iff_eq, halign]

theorem act_regWrite_refused {bits : Nat} {off : BitVec 6} (h : accessLegal bits off = false) (d : Word) (s : State) :
    act (.regWrite bits off d) s = .refused (.registerAccess bits off) :=
  if_neg (Bool.eq_false_iff.mp h)

theorem act_regRead_refused {bits : Nat} {off : BitVec 6} (h : accessLegal bits off = false) (s : State) :
    act (.regRead bits off) s = .refused (.registerAccess bits off) :=
  if_neg (Bool.eq_false_iff.mp h)

/-- Settles O20: an access is legal only if it is 32 bits wide and aligned. -/
theorem otherRegisterAccessesAreRefused : Obligations.OtherRegisterAccessesAreRefused := by
  intro s rest bits off d h
  have hlegal : accessLegal bits off = false := by
    rw [Bool.eq_false_iff, Ne, accessLegal_iff]
    omega
  exact ⟨act_regWrite_refused hlegal d _, act_regRead_refused hlegal _⟩

/-! ### Host accesses to the buffers (20_memory R50 to R53, R66) -/

theorem bufferWrite_next {s : State} (hb : s.status.busy = false) (t : State) : bufferWrite s t = .next t :=
  if_neg (Bool.eq_false_iff.mp hb)

/-- Settles O22: the write is `putPlane`, which stores one byte. -/
theorem planeWriteStoresOneByte : Obligations.PlaneWriteStoresOneByte := by
  intro s rest p i v hb
  refine ⟨putPlane (withInputs s rest) p i.toNat v, bufferWrite_next hb _, ?_, fun q j hne => ?_, rfl⟩
  · rw [planeByte_putPlane, if_pos ⟨rfl, rfl⟩]
  · rw [planeByte_putPlane, if_neg fun ⟨hq, hj⟩ => hne ⟨hq.symm, hj.symm⟩]
    rfl

/-- Settles O23: the write is `putOut`, which stores the four bytes of the word. -/
theorem outWriteStoresOneWord : Obligations.OutWriteStoresOneWord := by
  intro s rest k v hb
  refine ⟨putOut (withInputs s rest) k.toNat v, bufferWrite_next hb _, ?_, fun j => ?_, fun a ha => ?_, rfl⟩
  · rw [outWord_putOut, if_pos rfl]
  · have hword : (4 * k.toNat + j.val) / 4 = k.toNat := by omega
    have hbyte : (4 * k.toNat + j.val) % 4 = j.val := by omega
    rw [outByte_putOut, if_pos hword, hbyte, byteView_toNat]
  · rw [outByte_putOut, if_neg (by omega)]
    rfl

/-- Settles O24: each read records what is stored; a byte of OUT is its word's byte view. -/
theorem bufferReadsReturnStoredBytes : Obligations.BufferReadsReturnStoredBytes := by
  intro s rest
  refine ⟨fun p i => ?_, fun k => rfl, fun k j => ⟨outByte s (4 * k.toNat + j.val), rfl, ?_⟩⟩
  · cases p <;> rfl
  · rw [← byteView_outWord, byteView_toNat]

/-! ### The canonical form of the buffers -/

theorem EngineMove.memoryInv {s t : State} (hm : EngineMove s t) (h : MemoryInv s) : MemoryInv t := by
  cases hm with
  | zero => exact putOut_memoryInv h _ _
  | pixel => exact putOut_memoryInv h _ _
  | idle | zeroSkip | zeroDone | complete | truncate => exact h

theorem CommandMove.memoryInv {s t : State} (hm : CommandMove s t) (h : MemoryInv s) : MemoryInv t := by
  cases hm with
  | convert | alloc =>
    obtain ⟨hy, ha, hb, hout, -⟩ := h
    exact ⟨hy, ha, hb, hout, hout⟩
  | nop | illegal | rejected | tooSmall | skipped | clear => exact h

theorem ActMove.memoryInv {s t : State} {a : Action} (hm : ActMove s a t) (h : MemoryInv s) : MemoryInv t := by
  cases hm with
  | engine hm => exact hm.memoryInv h
  | command c hc hm => exact hm.memoryInv h
  | planeWrite => exact putPlane_memoryInv h _ _ _
  | outWrite => exact putOut_memoryInv h _ _
  | ignored | dropped | config | regRead | poll | planeRead | outRead | outByteRead => exact h

theorem StepMove.memoryInv {s t : State} (hm : StepMove s t) (h : MemoryInv s) : MemoryInv t := by
  cases hm with
  | alone hi hm => exact hm.memoryInv h
  | reset a rest hi => exact resetBlock_memoryInv (s := withInputs s rest) h
  | act a rest hi hm => exact hm.memoryInv h

/-- Settles O48: every write inserts into a buffer in canonical form. -/
theorem memoryStaysCanonical : Obligations.MemoryStaysCanonical := by
  intro s t h hstep
  exact (stepMove_of_step hstep).memoryInv h

/-! ### The bytes that a step can change (20_memory R53, R61) -/

/-- On the way from `s` to `t` no plane changes, and OUT changes in its first `n` words at most. -/
structure WritesOutBelow (n : Nat) (s t : State) : Prop where
  planes : ∀ p i, planeByte t p i = planeByte s p i
  out : ∀ a, 4 * n ≤ a → outByte t a = outByte s a

/-- How many words of OUT the block may write from a state: those of the frame during an operation, else none. -/
def writableWords (s : State) : Nat := if s.phase = .idle then 0 else npix s

theorem writableWords_of_idle {s : State} (hp : s.phase = .idle) : writableWords s = 0 := if_pos hp

theorem writableWords_of_active {s : State} (hp : s.phase ≠ .idle) : writableWords s = npix s := if_neg hp

theorem writableWords_le_npix (s : State) : writableWords s ≤ npix s := by
  unfold writableWords
  split
  · exact Nat.zero_le _
  · exact Nat.le_refl _

theorem WritesOutBelow.of_buffers_eq {n : Nat} {s t : State} (hy : t.bufY = s.bufY) (ha : t.bufA = s.bufA)
    (hb : t.bufB = s.bufB) (hout : t.bufOut = s.bufOut) : WritesOutBelow n s t where
  planes p i := by cases p <;> simp only [planeByte, planeMem, hy, ha, hb]
  out a _ := by simp only [outByte, hout]

theorem WritesOutBelow.trans {n : Nat} {s t u : State} (h : WritesOutBelow n s t) (h' : WritesOutBelow n t u) :
    WritesOutBelow n s u where
  planes p i := (h'.planes p i).trans (h.planes p i)
  out a ha := (h'.out a ha).trans (h.out a ha)

theorem WritesOutBelow.putOut {n k : Nat} (hk : k < n) (s : State) (w : Word) : WritesOutBelow n s (putOut s k w) where
  planes := planeByte_putOut s k w
  out a ha := by rw [outByte_putOut, if_neg (by omega)]

/-- A word is zeroed below ZIDX's bound, and a pixel's word is stored at its luma cursor, both inside the frame. -/
theorem EngineMove.writesOutBelow {s t : State} (hm : EngineMove s t) (h : SequencerInv s) :
    WritesOutBelow (writableWords s) s t := by
  cases hm with
  | zero hp hz hl =>
    rw [writableWords_of_active (by simp [hp])]
    exact (WritesOutBelow.putOut hz s 0).trans (.of_buffers_eq rfl rfl rfl rfl)
  | pixel hp hr hw hg hl =>
    have hr' : curRow s < frameH s := Nat.lt_of_le_of_ne (h.rowInFrame hp) hr
    have hc : curCol s < frameW s := h.colInRow hp hr' (Nat.pos_of_ne_zero hw)
    rw [writableWords_of_active (by simp [hp])]
    exact (WritesOutBelow.putOut (lumaCursor_lt_npix hr' hc) s _).trans (.of_buffers_eq rfl rfl rfl rfl)
  | idle | zeroSkip | zeroDone | complete | truncate => exact .of_buffers_eq rfl rfl rfl rfl

theorem CommandMove.writesOutBelow {s t : State} (hm : CommandMove s t) (n : Nat) : WritesOutBelow n s t := by
  cases hm <;> exact .of_buffers_eq rfl rfl rfl rfl

theorem ActMove.writesOutBelow {s t : State} {a : Action} (hm : ActMove s a t) (ha : a.writesBuffer = false)
    (h : SequencerInv s) : WritesOutBelow (writableWords s) s t := by
  cases hm with
  | engine hm => exact hm.writesOutBelow h
  | command c hc hm => exact hm.writesOutBelow _
  | planeWrite | outWrite => simp [Action.writesBuffer] at ha
  | ignored | dropped | config | regRead | poll | planeRead | outRead | outByteRead =>
    exact .of_buffers_eq rfl rfl rfl rfl

/-- A reset takes words back only while BUSY = 1, and only below NPIX (70_reset_and_hazards R201). -/
theorem resetBlock_writesOutBelow {s : State} (h : SequencerInv s) :
    WritesOutBelow (writableWords s) s (resetBlock s) where
  planes := planeByte_resetBlock s
  out a ha := by
    rw [outByte_resetBlock, if_neg]
    rintro ⟨hb, hk⟩
    rw [writableWords_of_active (h.busyIffActive.mp hb)] at ha
    have hkeep : resetKeepsWord s (a / 4) = true := resetKeepsWord_of_npix_le (by omega)
    simp [hkeep] at hk

theorem StepMove.writesOutBelow {s t : State} (hm : StepMove s t) (h : SequencerInv s)
    (hwrite : ∀ a rest, s.inputs = Script.plain a :: rest → a.writesBuffer = false) :
    WritesOutBelow (writableWords s) s t := by
  have hrest (rest : List Input) : WritesOutBelow (writableWords s) s (withInputs s rest) :=
    .of_buffers_eq rfl rfl rfl rfl
  have hinv (rest : List Input) : SequencerInv (withInputs s rest) := h.of_control_eq rfl
  cases hm with
  | alone hi hm => exact hm.writesOutBelow h
  | reset a rest hi => exact (hrest rest).trans (resetBlock_writesOutBelow (hinv rest))
  | act a rest hi hm => exact (hrest rest).trans (hm.writesOutBelow (hwrite a rest hi) (hinv rest))

/-- Settles O51: no move but a host buffer write changes a byte outside the frame's words of OUT. -/
theorem engineWritesOnlyFrameWords : Obligations.EngineWritesOnlyFrameWords := by
  intro s t h hstep hplane hout
  have hwrite (a : Action) (rest : List Input) (hi : s.inputs = Script.plain a :: rest) : a.writesBuffer = false := by
    cases a with
    | planeWrite p i v => exact absurd hi (hplane p i v rest)
    | outWrite k v => exact absurd hi (hout k v rest)
    | engine | regWrite | regRead | poll | planeRead | outRead | outByteRead => rfl
  have hkept := (stepMove_of_step hstep).writesOutBelow h hwrite
  refine ⟨hkept.planes, fun a ha => hkept.out a ?_, fun hp a => hkept.out a ?_⟩
  · have hle := writableWords_le_npix s
    omega
  · simp [writableWords_of_idle hp]

/-! ### The steps that stop (20_memory R56, R66) -/

/-- An action that answers a next state has a meaning, and writes no buffer while BUSY = 1. -/
theorem wellFormed_of_act {a : Action} {s t : State} (h : act a s = .next t) :
    a.wellFormed = true ∧ (a.writesBuffer = true → s.status.busy = false) := by
  cases a with
  | regWrite bits off d =>
    refine ⟨?_, nofun⟩
    by_contra hlegal
    rw [act_regWrite_refused (Bool.eq_false_iff.mpr hlegal)] at h
    cases h
  | regRead bits off =>
    refine ⟨?_, nofun⟩
    by_contra hlegal
    rw [act_regRead_refused (Bool.eq_false_iff.mpr hlegal)] at h
    cases h
  | planeWrite p i v =>
    cases actMove_of_act h with
    | planeWrite _ _ _ hb => exact ⟨rfl, fun _ => hb⟩
  | outWrite k v =>
    cases actMove_of_act h with
    | outWrite _ _ hb => exact ⟨rfl, fun _ => hb⟩
  | engine | poll | planeRead | outRead | outByteRead => exact ⟨rfl, nofun⟩

/-- When an input is answered with a next state: a reset always, another action if it breaks no host duty. -/
theorem applyInput_next_iff {i : Input} {s : State} (h : SequencerInv s) :
    (∃ t, applyInput i s = .next t) ↔
      i.reset = true ∨ i.act.wellFormed = true ∧ (i.act.writesBuffer = true → s.status.busy = false) := by
  obtain ⟨r, a⟩ := i
  cases r with
  | true => exact ⟨fun _ => .inl rfl, fun _ => ⟨_, rfl⟩⟩
  | false =>
    constructor
    · rintro ⟨t, ht⟩
      exact .inr (wellFormed_of_act ht)
    · rintro (hr | ⟨hwf, hwrite⟩)
      · cases hr
      · exact act_next h hwf hwrite

/-- Settles O59: with no input left the engine answers, and else the next input does. -/
theorem stepStopsExactlyOnBrokenDuties : Obligations.StepStopsExactlyOnBrokenDuties := by
  intro s h
  cases hi : s.inputs with
  | nil =>
    rw [step_alone hi]
    exact ⟨fun _ => nofun, fun _ => engineStep_next h⟩
  | cons i rest =>
    have hstep : step s = applyInput i (withInputs s rest) := by simp only [step, hi]
    have hinv : SequencerInv (withInputs s rest) := h.of_control_eq rfl
    rw [hstep, applyInput_next_iff hinv]
    constructor
    · intro hok j rest' hj
      cases hj
      exact hok
    · intro hok
      exact hok i rest rfl

end Sys2Proof.Machine
end

section
/-! PROOFS of the family 30_encoding: POLL ends, the decoder on every CMD word, the command that a fetched word runs, and
the fields of the STATUS word. -/

namespace Sys2Proof.Machine

/-! ### What is left of an operation (41_pixel_walk R137) -/

theorem remaining_of_idle {s : State} (hp : s.phase = .idle) : remaining s = 0 := by
  simp only [remaining, hp]

theorem remaining_of_zfill {s : State} (hp : s.phase = .zfill) :
    remaining s = (npix s - s.zidx.toNat + 1) + (npix s + 1) := by
  simp only [remaining, hp]

theorem remaining_of_conv {s : State} (hp : s.phase = .conv) :
    remaining s = npix s - lumaCursor s (curRow s) (curCol s) + 1 := by
  simp only [remaining, hp, lumaCursor]

theorem remaining_pos {s : State} (hp : s.phase ≠ .idle) : 0 < remaining s := by
  cases hq : s.phase with
  | idle => exact absurd hq hp
  | zfill =>
    rw [remaining_of_zfill hq]
    exact Nat.succ_pos _
  | conv =>
    rw [remaining_of_conv hq]
    exact Nat.succ_pos _

/-- A step of the walk that moves the cursor on from inside the frame leaves less to do. -/
theorem remaining_lt_of_lumaCursor_lt {s t : State} (hs : s.phase = .conv) (ht : t.phase = .conv) (hn : npix t = npix s)
    (hin : lumaCursor s (curRow s) (curCol s) < npix s)
    (hlt : lumaCursor s (curRow s) (curCol s) < lumaCursor t (curRow t) (curCol t)) : remaining t < remaining s := by
  rw [remaining_of_conv hs, remaining_of_conv ht, hn]
  omega

/-- In CONV the cursor is on a pixel of the frame until the walk is over. -/
theorem SequencerInv.cursor_in_frame {s : State} (h : SequencerInv s) (hp : s.phase = .conv) (hr : curRow s ≠ frameH s)
    (hw : frameW s ≠ 0) : curRow s < frameH s ∧ curCol s < frameW s := by
  have hr' : curRow s < frameH s := Nat.lt_of_le_of_ne (h.rowInFrame hp) hr
  exact ⟨hr', h.colInRow hp hr' (Nat.pos_of_ne_zero hw)⟩

/-- The start of the next row is behind every pixel of the row. -/
theorem lumaCursor_lt_next_row {s : State} {i j : Nat} (hj : j < frameW s) : lumaCursor s i j < lumaCursor s (i + 1) 0 := by
  simp only [lumaCursor, Nat.succ_mul]
  omega

theorem lumaCursor_truncateRow {s : State} (hr : curRow s < frameH s) :
    lumaCursor (truncateRow s) (curRow (truncateRow s)) (curCol (truncateRow s)) = lumaCursor s (curRow s + 1) 0 := by
  rw [curRow_truncateRow hr]
  rfl

/-- The cursor moves on by one, in the row or to the next one (R132, R133). -/
theorem lumaCursor_convertedPixel {s : State} (hr : curRow s < frameH s) (hc : curCol s < frameW s) :
    lumaCursor (convertedPixel s) (curRow (convertedPixel s)) (curCol (convertedPixel s)) =
      lumaCursor s (curRow s) (curCol s) + 1 := by
  simp only [lumaCursor, curRow_convertedPixel hr, curCol_convertedPixel, frameW_convertedPixel]
  split
  · omega
  · rw [Nat.succ_mul]
    omega

/-- Every engine step of an operation leaves less to do. -/
theorem EngineMove.remaining_lt {s t : State} (hm : EngineMove s t) (h : SequencerInv s) (hp : s.phase ≠ .idle) :
    remaining t < remaining s := by
  cases hm with
  | idle hi => exact absurd hi hp
  | zero hz hlt hl =>
    have hn : npix (zeroedWord s) = npix s := rfl
    have hz' : (zeroedWord s).phase = .zfill := hz
    rw [remaining_of_zfill hz, remaining_of_zfill hz', zidx_zeroedWord_toNat hlt, hn]
    omega
  | zeroSkip | complete =>
    rw [remaining_of_idle rfl]
    exact remaining_pos hp
  | zeroDone hz hle hf =>
    have hn : npix { s with phase := .conv, row := 0, col := 0 } = npix s := rfl
    rw [remaining_of_zfill hz, remaining_of_conv rfl, hn]
    omega
  | truncate hc hr hw hg =>
    obtain ⟨hrow, hcol⟩ := h.cursor_in_frame hc hr hw
    refine remaining_lt_of_lumaCursor_lt hc hc rfl (lumaCursor_lt_npix hrow hcol) ?_
    rw [lumaCursor_truncateRow hrow]
    exact lumaCursor_lt_next_row hcol
  | pixel hc hr hw hg hl =>
    obtain ⟨hrow, hcol⟩ := h.cursor_in_frame hc hr hw
    refine remaining_lt_of_lumaCursor_lt hc hc rfl (lumaCursor_lt_npix hrow hcol) ?_
    rw [lumaCursor_convertedPixel hrow hcol]
    exact Nat.lt_succ_self _

/-- What is left depends on the control registers alone. -/
theorem remaining_of_control_eq {s t : State} (hc : control t = control s) : remaining t = remaining s := by
  obtain ⟨-, hp, hr, hcol, hz, hcfg⟩ := Control.mk.inj hc
  obtain ⟨hw, hh, -⟩ := configuration_eq_iff.mp hcfg
  simp only [remaining, curRow, curCol, frameH, frameW, npix, hp, hr, hcol, hz, hw, hh]

/-! ### POLL (30_encoding R81) -/

theorem run_succ_of_step {s t : State} (h : step s = .next t) (n : Nat) : run (n + 1) s = run n t := by
  simp only [run, h]

theorem step_poll {s : State} {rest : List Input} (hi : s.inputs = Script.poll :: rest) :
    step s = .next (pollStatus (withInputs s rest)) := by
  simp only [step, hi]
  rfl

theorem step_engineTurn {s : State} {rest : List Input} (hi : s.inputs = Script.engineTurn :: rest) :
    step s = engineStep (withInputs s rest) := by
  simp only [step, hi]
  rfl

theorem pollStatus_inputs_of_not_busy {s : State} (hb : s.status.busy = false) : (pollStatus s).inputs = s.inputs :=
  if_neg (Bool.eq_false_iff.mp hb)

theorem pollStatus_inputs_of_busy {s : State} (hb : s.status.busy = true) :
    (pollStatus s).inputs = Script.engineTurn :: Script.poll :: s.inputs :=
  if_pos hb

theorem control_pollStatus (s : State) : control (pollStatus s) = control s := rfl

/-- While BUSY = 1 a poll is followed by an engine step, which leaves less to do, and by the poll again (log entry 6). -/
theorem poll_again {s : State} (h : SequencerInv s) (hi : s.inputs = [Script.poll]) (hb : s.status.busy = true) :
    ∃ t, run 2 s = .next t ∧ SequencerInv t ∧ t.inputs = [Script.poll] ∧ remaining t < remaining s := by
  obtain ⟨u, hu, hc, hui⟩ : ∃ u, step s = .next u ∧ control u = control s ∧ u.inputs = [Script.engineTurn, Script.poll] :=
    ⟨_, step_poll hi, control_pollStatus _, pollStatus_inputs_of_busy hb⟩
  have hc' : control (withInputs u [Script.poll]) = control s := hc
  have hinv := h.of_control_eq hc'
  obtain ⟨t, ht⟩ := engineStep_next hinv
  have hm := engineMove_of_engineStep ht
  have hbusy : (withInputs u [Script.poll]).status.busy = true := (congrArg Control.busy hc').trans hb
  have hlt := hm.remaining_lt hinv (hinv.busyIffActive.mp hbusy)
  refine ⟨t, ?_, hm.sequencerInv hinv, hm.inputs_eq, remaining_of_control_eq hc' ▸ hlt⟩
  rw [run_succ_of_step hu, run_succ_of_step ((step_engineTurn hui).trans ht), run]

/-- Settles O43: by induction on what is left of the operation, which every further round of the poll shortens. -/
theorem pollEnds : Obligations.PollEnds := by
  intro s h hi
  induction hr : remaining s using Nat.strong_induction_on generalizing s with
  | _ r ih =>
    subst hr
    cases hb : s.status.busy with
    | false =>
      have hin : (pollStatus (withInputs s [])).inputs = [] := pollStatus_inputs_of_not_busy hb
      exact ⟨1, _, run_succ_of_step (step_poll hi) 0, hin, h.idle_of_not_busy hb, s.observed, rfl, hb⟩
    | true =>
      obtain ⟨u, hu, hinv, hui, hlt⟩ := poll_again h hi hb
      obtain ⟨n, t, hrun, hdone⟩ := ih _ hlt u hinv hui rfl
      exact ⟨2 + n, t, (run_add n hu).trans hrun, hdone⟩

/-! ### The decoder on every word (30_encoding R72 to R74, R78) -/

/-- The decoder reads back the word of every command. -/
theorem decodeWord_encode (i : Instr) : decodeWord (encode i) = .ok i := by
  cases i with
  | nop => exact Laws.RoundTrip.nop
  | convert => exact Laws.RoundTrip.convert
  | convertAlloc => exact Laws.RoundTrip.convertAlloc
  | clearStatus => exact Laws.RoundTrip.clearStatus

theorem decodeWord_eq_ok_iff {c : Word} {i : Instr} : decodeWord c = .ok i ↔ c = encode i :=
  ⟨eq_encode_of_decodeWord, fun h => h ▸ decodeWord_encode i⟩

theorem wellFormed_eq_true (i : Instr) : i.wellFormed = true := by
  cases i <;> rfl

theorem opcode_lt_four (i : Instr) : (opcode i).toNat < 4 := by
  cases i <;> decide

/-! Why a word is illegal, in its fields. -/

theorem rsvField_of_reservedBitsSet {c : Word} (h : decodeWord c = .error .reservedBitsSet) : rsvField c ≠ 0 := by
  unfold decodeWord at h
  repeat' split at h
  all_goals cases h
  assumption

theorem fields_of_unknownOpcode {c : Word} (h : decodeWord c = .error .unknownOpcode) :
    rsvField c = 0 ∧ ∀ i, opcField c ≠ opcode i := by
  unfold decodeWord at h
  repeat' split at h
  all_goals cases h
  refine ⟨not_not.mp ‹_›, fun i => ?_⟩
  cases i <;> assumption

/-- Each number below 4 is a command's opcode. -/
theorem four_le_of_opcField_ne {c : Word} (h : ∀ i, opcField c ≠ opcode i) : 4 ≤ c.toNat % 256 := by
  have h0 : c.toNat % 256 ≠ 0 := mt (opcField_eq_iff c (opcode .nop)).mpr (h .nop)
  have h1 : c.toNat % 256 ≠ 1 := mt (opcField_eq_iff c (opcode .convert)).mpr (h .convert)
  have h2 : c.toNat % 256 ≠ 2 := mt (opcField_eq_iff c (opcode .convertAlloc)).mpr (h .convertAlloc)
  have h3 : c.toNat % 256 ≠ 3 := mt (opcField_eq_iff c (opcode .clearStatus)).mpr (h .clearStatus)
  omega

/-- Settles O1: a word that decodes is its command's word, and one that does not is none of the four. -/
theorem decodeFollowsOpcodeMap : Obligations.DecodeFollowsOpcodeMap := by
  intro c
  cases h : decodeWord c with
  | ok i =>
    obtain rfl := eq_encode_of_decodeWord h
    cases i <;> rfl
  | error e =>
    have hne (i : Instr) : c ≠ encode i := by
      rintro rfl
      simp [decodeWord_encode] at h
    have h0 : c ≠ 0x00000000 := hne .nop
    have h1 : c ≠ 0x00000001 := hne .convert
    have h2 : c ≠ 0x00000002 := hne .convertAlloc
    have h3 : c ≠ 0x00000003 := hne .clearStatus
    rw [if_neg h0, if_neg h1, if_neg h2, if_neg h3]
    rfl

/-- Settles O2: a word decodes to a command exactly if it is the command's word. -/
theorem decodeAgreesWithEncode : Obligations.DecodeAgreesWithEncode := by
  intro i c
  rw [and_iff_right (wellFormed_eq_true i), decodeWord_eq_ok_iff]

/-- Settles O3: the words of the three outcomes of the decoder lie in three ranges that do not meet. -/
theorem illegalWordsAreNamed : Obligations.IllegalWordsAreNamed := by
  intro c
  cases h : decodeWord c with
  | ok i =>
    have hlt : c.toNat < 4 := by
      rw [eq_encode_of_decodeWord h, encode_toNat]
      exact opcode_lt_four i
    exact ⟨iff_of_false nofun (by omega), iff_of_false nofun (by omega)⟩
  | error e =>
    cases e with
    | reservedBitsSet =>
      have hhigh := mt (rsvField_eq_zero_iff c).mpr (rsvField_of_reservedBitsSet h)
      exact ⟨iff_of_true rfl (by omega), iff_of_false nofun (by omega)⟩
    | unknownOpcode =>
      obtain ⟨hrsv, hopc⟩ := fields_of_unknownOpcode h
      have hlow := (rsvField_eq_zero_iff c).mp hrsv
      have hfour := four_le_of_opcField_ne hopc
      exact ⟨iff_of_false nofun (by omega), iff_of_true rfl (by omega)⟩

/-- Settles O4: each word is evaluated. -/
theorem tableWordsDecode : Obligations.TableWordsDecode :=
  ⟨rfl, rfl, rfl, rfl, rfl, rfl, rfl⟩

/-! ### The command that a fetched word runs (30_encoding R71) -/

theorem tableWord_toNat (c : Word) : tableWord 32 c.toNat = c := by
  rw [tableWord, Nat.mod_eq_of_lt c.isLt, BitVec.ofNat_toNat, BitVec.setWidth_eq]

theorem command_encode (i : Instr) (s : State) : command (encode i) s = exec i s := by
  simp only [command, decodeWord_encode]

/-- A step that meets a CMD write is the command, on the inputs that are left. -/
theorem step_cmd_write (s : State) (c : Word) (rest : List Input) :
    step { s with inputs := Script.wr .cmd c :: rest } = command c { s with inputs := rest } := rfl

/-- Settles O6: the fetched word is a CMD write of the command's own word. -/
theorem fetchedCommandRuns : Obligations.FetchedCommandRuns := by
  intro s i
  have hfetch : s.withFetchWord 32 (encode i).toNat = { s with inputs := Script.wr .cmd (encode i) :: s.inputs } := by
    rw [State.withFetchWord, tableWord_toNat]
    rfl
  rw [hfetch, step_cmd_write, command_encode]

/-! ### The STATUS word (30_encoding R76) -/

theorem getLsbD_bit_zero (b : Bool) : (bit b).getLsbD 0 = b := by
  cases b <;> rfl

/-- The four flags are the low bits of the word. -/
theorem Status.word_getLsbD_of_lt_four (st : Status) {i : Nat} (hi : i < 4) :
    st.word.getLsbD i = (bit st.trunc ++ (bit st.fmtSkip ++ (bit st.done ++ bit st.busy))).getLsbD i := by
  rw [Status.word, BitVec.getLsbD_append, if_pos (by omega), BitVec.getLsbD_append, if_pos (by omega)]

/-- Settles O16: each field is found behind the ones below it. -/
theorem statusWordLayout : Obligations.StatusWordLayout := by
  intro st
  refine ⟨BitVec.extractLsb'_append_eq_left, ?_, ?_, ?_, ?_, ?_⟩
  · exact (BitVec.extractLsb'_append_eq_of_add_le (by decide)).trans BitVec.extractLsb'_append_eq_left
  all_goals
    rw [Status.word_getLsbD_of_lt_four st (by decide)]
    simp only [BitVec.getLsbD_append]
    exact getLsbD_bit_zero _

end Sys2Proof.Machine
end

section
/-! PROOFS of the family 40_commands: what each command, and each register access, does to an idle and to a busy block, and
what it leaves. First one equation per command and condition, then what a step makes of them. -/

namespace Sys2Proof.Machine

/-! ### STATUS at the CMD write (40_commands R103 to R106, R110) -/

theorem Status.started_eq (st : Status) :
    st.started = { busy := true, done := false, fmtSkip := false, trunc := false, err := 0 } := rfl

theorem Status.cleared_of_not_busy {st : Status} (hb : st.busy = false) :
    st.cleared = { busy := false, done := false, fmtSkip := false, trunc := false, err := 0 } := by
  rw [cleared, hb]

theorem Status.formatSkipped_of_not_busy {st : Status} (hb : st.busy = false) :
    st.formatSkipped = { busy := false, done := true, fmtSkip := true, trunc := false, err := 0 } := by
  rw [formatSkipped, cleared_of_not_busy hb]

theorem Status.outTooSmall_of_not_busy {st : Status} (hb : st.busy = false) :
    st.outTooSmall = { busy := false, done := true, fmtSkip := false, trunc := false, err := 3 } := by
  rw [outTooSmall, cleared_of_not_busy hb]
  rfl

/-! ### The commands of an idle block (40_commands R103 to R106) -/

/-- The state in which an accepted CONVERT leaves the block: the pixel walk at its first pixel. -/
def walkStarted (s : State) : State :=
  { s with phase := .conv, row := 0, col := 0, status := s.status.started, outBefore := s.bufOut }

/-- The state in which an accepted CONVERT_ALLOC leaves the block: the zero-fill at its first word. -/
def zeroFillStarted (s : State) : State :=
  { s with phase := .zfill, zidx := 0, status := s.status.started, outBefore := s.bufOut }

theorem unlessBusy_of_not_busy {s : State} (hb : s.status.busy = false) (effect : State → State) :
    unlessBusy s effect = effect s :=
  if_neg (Bool.eq_false_iff.mp hb)

section
variable {s : State} (hb : s.status.busy = false)
include hb

theorem exec_convert_of_short (hl : s.outLen.toNat < npix s) : exec .convert s = .next (outTooSmall s) := by
  rw [exec, execConvert, unlessBusy_of_not_busy hb, convert, if_pos hl]

theorem exec_convert_of_other_format (hl : npix s ≤ s.outLen.toNat) (hf : s.formatTag ≠ Config.fmtYuv420) :
    exec .convert s = .next { s with status := s.status.formatSkipped } := by
  rw [exec, execConvert, unlessBusy_of_not_busy hb, convert, if_neg (Nat.not_lt.mpr hl), if_pos hf]

theorem exec_convert_of_accepted (hl : npix s ≤ s.outLen.toNat) (hf : s.formatTag = Config.fmtYuv420) :
    exec .convert s = .next (walkStarted s) := by
  rw [exec, execConvert, unlessBusy_of_not_busy hb, convert, if_neg (Nat.not_lt.mpr hl), if_neg (not_not.mpr hf)]
  rfl

theorem exec_convertAlloc_of_short (hl : s.outLen.toNat < npix s) : exec .convertAlloc s = .next (outTooSmall s) := by
  rw [exec, execConvertAlloc, unlessBusy_of_not_busy hb, convertAlloc, if_pos hl]

theorem exec_convertAlloc_of_accepted (hl : npix s ≤ s.outLen.toNat) :
    exec .convertAlloc s = .next (zeroFillStarted s) := by
  rw [exec, execConvertAlloc, unlessBusy_of_not_busy hb, convertAlloc, if_neg (Nat.not_lt.mpr hl)]
  rfl

theorem exec_clearStatus_of_not_busy : exec .clearStatus s = .next (clearStatus s) := by
  rw [exec, execClearStatus, unlessBusy_of_not_busy hb]

end

/-! ### The start of an operation -/

/-- A frame is the configuration registers and the bytes of the planes. -/
theorem SameFrame.of_configuration_eq {s t : State} (hc : configuration t = configuration s)
    (hp : ∀ p i, planeByte t p i = planeByte s p i) : SameFrame s t := by
  obtain ⟨hw, hh, hf, hy, ha, hb, ho⟩ := configuration_eq_iff.mp hc
  exact ⟨hw.symm, hh.symm, hf.symm, hy.symm, ha.symm, hb.symm, ho.symm, fun p i => (hp p i).symm⟩

theorem sameFrame_walkStarted (s : State) : SameFrame s (walkStarted s) :=
  .of_configuration_eq rfl (WritesOutBelow.of_buffers_eq (n := 0) rfl rfl rfl rfl).planes

theorem sameFrame_zeroFillStarted (s : State) : SameFrame s (zeroFillStarted s) :=
  .of_configuration_eq rfl (WritesOutBelow.of_buffers_eq (n := 0) rfl rfl rfl rfl).planes

/-- At the first pixel the walk has been at none. -/
theorem not_cursorPassed_of_first {s : State} (hr : curRow s = 0) (hc : curCol s = 0) (i j : Nat) :
    ¬ cursorPassed s i j := by
  rw [cursorPassed, hr, hc]
  omega

theorem not_cursorPassed_walkStarted (s : State) (i j : Nat) : ¬ cursorPassed (walkStarted s) i j :=
  not_cursorPassed_of_first rfl rfl i j

/-- A CONVERT zeroes nothing (43_output_packer R168). -/
theorem baseWord_convert (s0 : State) (k : Nat) : baseWord false s0 k = outWord s0 k := rfl

theorem walkStarted_sequencerInv {s : State} (hl : npix s ≤ s.outLen.toNat) : SequencerInv (walkStarted s) :=
  .of_conv rfl rfl (Nat.zero_le _) (fun _ hw => hw) hl

theorem zeroFillStarted_sequencerInv {s : State} (hl : npix s ≤ s.outLen.toNat) : SequencerInv (zeroFillStarted s) :=
  .of_zfill rfl rfl (Nat.zero_le _) hl

theorem walkStarted_opProgress {s : State} (hf : s.formatTag = Config.fmtYuv420) : OpProgress false s (walkStarted s) where
  frame := sameFrame_walkStarted s
  prior _ := rfl
  notSkipped _ := rfl
  zeroFilled := nofun
  format _ := hf
  passed _ i j _ _ hij := absurd hij (not_cursorPassed_walkStarted s i j)
  ahead _ k _ := (baseWord_convert s k).symm
  truncated _ := iff_of_false nofun fun ⟨i, j, _, _, hij, _⟩ => not_cursorPassed_walkStarted s i j hij

theorem zeroFillStarted_opProgress (s : State) : OpProgress true s (zeroFillStarted s) where
  frame := sameFrame_zeroFillStarted s
  prior _ := rfl
  notSkipped _ := rfl
  zeroFilled _ := ⟨rfl, rfl, fun k => (if_neg (Nat.not_lt_zero k)).symm⟩
  format := nofun
  passed := nofun
  ahead := nofun
  truncated := nofun

/-- Settles O55: at the start nothing is behind the cursor, and every word is as it was. -/
theorem operationStartsInProgress : Obligations.OperationStartsInProgress := by
  intro s hb hl
  constructor
  · intro hf
    exact ⟨_, exec_convert_of_accepted hb hl hf, rfl, walkStarted_sequencerInv hl, walkStarted_opProgress hf⟩
  · exact ⟨_, exec_convertAlloc_of_accepted hb hl, rfl, zeroFillStarted_sequencerInv hl, zeroFillStarted_opProgress s⟩

/-! ### A step that meets a register write (40_commands R100, R102) -/

theorem regAt_regOffset (r : Reg) : regAt (regOffset r) = some r := by
  cases r <;> rfl

theorem accessLegal_regOffset (r : Reg) : accessLegal 32 (regOffset r) = true := by
  cases r <;> rfl

/-- A step that meets a write to a register is that write, on the inputs that are left. -/
theorem step_wr {s : State} {r : Reg} {d : Word} {rest : List Input} (hi : s.inputs = Script.wr r d :: rest) :
    step s = regWrite (some r) d (withInputs s rest) := by
  have hact : step s = act (.regWrite 32 (regOffset r) d) (withInputs s rest) := by
    simp only [step, hi]
    rfl
  rw [hact, act, if_pos (accessLegal_regOffset r), regAt_regOffset]

theorem command_of_decodeWord {c : Word} {i : Instr} (h : decodeWord c = .ok i) (s : State) : command c s = exec i s := by
  simp only [command, h]

theorem command_of_illegal {c : Word} (h : (decodeWord c).toOption = none) (s : State) :
    command c s = .next (illegalCommand s) := by
  unfold command
  split
  · rename_i i hi
    simp [hi, Except.toOption] at h
  · rfl

/-- Settles O5: a CMD write of a word that decodes runs its command. -/
theorem stepRunsDecodedCommand : Obligations.StepRunsDecodedCommand := by
  intro s rest c i hi _ hdecode
  rw [step_wr hi]
  exact command_of_decodeWord hdecode _

/-- Settles O7: a CMD write of any other word is `illegalCommand`. -/
theorem illegalCommandSetsOnlyErr : Obligations.IllegalCommandSetsOnlyErr := by
  intro s rest c hi hillegal
  rw [step_wr hi]
  exact command_of_illegal hillegal _

/-! ### What each command does -/

theorem decodeWord_of_rsvField_ne_zero {c : Word} (h : rsvField c ≠ 0) : decodeWord c = .error .reservedBitsSet :=
  if_pos h

/-- Settles O8: the decoder looks at RSV first. -/
theorem nopChangesNothing : Obligations.NopChangesNothing := by
  refine ⟨decodeWord_encode .nop, fun s => rfl, fun c _ hrsv => ?_⟩
  rw [decodeWord_of_rsvField_ne_zero hrsv]
  rfl

/-- Settles O9: the state is `walkStarted`. -/
theorem convertStartsPixelWalk : Obligations.ConvertStartsPixelWalk := by
  intro s hb hl hf
  rw [exec_convert_of_accepted hb hl hf, walkStarted, Status.started_eq]

/-- Settles O10: the format check comes after the check of OUT_LEN. -/
theorem convertSkipsOtherFormat : Obligations.ConvertSkipsOtherFormat := by
  intro s hb hl hf
  rw [exec_convert_of_other_format hb hl hf, Status.formatSkipped_of_not_busy hb]

/-- Settles O11: the state is `zeroFillStarted`. -/
theorem convertAllocStartsZeroFill : Obligations.ConvertAllocStartsZeroFill := by
  intro s hb hl
  rw [exec_convertAlloc_of_accepted hb hl, zeroFillStarted, Status.started_eq]

/-- Settles O12: both commands check OUT_LEN first. -/
theorem shortOutputIsRejected : Obligations.ShortOutputIsRejected := by
  refine ⟨fun s => ⟨rfl, npix_le s⟩, fun s i hi hb hl => ?_⟩
  rw [← Status.outTooSmall_of_not_busy hb]
  rcases hi with rfl | rfl
  · exact exec_convert_of_short hb hl
  · exact exec_convertAlloc_of_short hb hl

/-- Settles O13: by BUSY. -/
theorem clearStatusClearsStickyFields : Obligations.ClearStatusClearsStickyFields := by
  refine ⟨decodeWord_encode .clearStatus, fun s => ⟨fun hb => ?_, fun hb => exec_of_busy (i := .clearStatus) nofun hb⟩⟩
  rw [exec_clearStatus_of_not_busy hb, clearStatus, Status.cleared_of_not_busy hb]

/-! ### What a busy block rejects (40_commands R109) -/

theorem configWrite_of_busy {s : State} (hb : s.status.busy = true) (write : State → State) :
    configWrite s write = busyReject s :=
  if_pos hb

theorem regWrite_of_busy {s : State} {r : Reg} (hb : s.status.busy = true) (hcmd : r ≠ .cmd) (hstatus : r ≠ .status)
    (d : Word) : regWrite (some r) d s = .next (busyReject s) := by
  cases r with
  | cmd => exact absurd rfl hcmd
  | status => exact absurd rfl hstatus
  | width | height | formatTag | yCap | aCap | bCap | outLen =>
    exact congrArg Host.Outcome.next (configWrite_of_busy hb _)

/-- Settles O14: the command and the write are both `busyReject`. -/
theorem busyBlockRejects : Obligations.BusyBlockRejects := by
  intro s rest hb
  constructor
  · intro c i hi hdecode hnop
    rw [step_wr hi]
    exact (command_of_decodeWord hdecode _).trans (exec_of_busy hnop hb)
  · intro r d hi hcmd hstatus
    rw [step_wr hi]
    exact regWrite_of_busy (s := withInputs s rest) hb hcmd hstatus d

/-! ### The frame of the commands -/

/-- Whatever a rejection and the effect of a command keep, the command keeps. -/
theorem unlessBusy_keeps {α : Type} (f : State → α) {effect : State → State} {s : State}
    (hreject : f (busyReject s) = f s) (heffect : f (effect s) = f s) : f (unlessBusy s effect) = f s := by
  unfold unlessBusy
  split
  · exact hreject
  · exact heffect

theorem convert_zidx (s : State) : (convert s).zidx = s.zidx := by
  unfold convert
  split
  · rfl
  · split <;> rfl

/-- CONVERT_ALLOC leaves the pixel cursor. -/
theorem convertAlloc_row_col (s : State) : (convertAlloc s).row = s.row ∧ (convertAlloc s).col = s.col := by
  unfold convertAlloc
  split <;> exact ⟨rfl, rfl⟩

theorem CommandMove.configuration_eq {s t : State} (hm : CommandMove s t) : configuration t = configuration s := by
  cases hm <;> rfl

theorem CommandMove.observed_eq {s t : State} (hm : CommandMove s t) : t.observed = s.observed := by
  cases hm <;> rfl

theorem CommandMove.resetCount_eq {s t : State} (hm : CommandMove s t) : t.resetCount = s.resetCount := by
  cases hm <;> rfl

/-- No command clears BUSY: a busy block stays busy through every one. -/
theorem CommandMove.busy {s t : State} (hm : CommandMove s t) (hb : s.status.busy = true) : t.status.busy = true := by
  cases hm with
  | nop | illegal | rejected | tooSmall | skipped | clear => exact hb
  | convert | alloc => rfl

theorem CommandMove.out_eq {s t : State} (hm : CommandMove s t) (a : Nat) : outByte t a = outByte s a :=
  (hm.writesOutBelow 0).out a (Nat.zero_le _)

theorem CommandMove.planes_eq {s t : State} (hm : CommandMove s t) (p : Plane) (k : Nat) : planeByte t p k = planeByte s p k :=
  (hm.writesOutBelow 0).planes p k

theorem commandMove_of_exec {i : Instr} {s t : State} (h : exec i s = .next t) : CommandMove s t := by
  obtain ⟨u, hu, hm⟩ := exec_move i s
  rw [hu] at h
  cases h
  exact hm

theorem eq_of_exec_nop {s t : State} (h : exec .nop s = .next t) : t = s := by
  cases h
  rfl

theorem zidx_of_exec_convert {s t : State} (h : exec .convert s = .next t) : t.zidx = s.zidx := by
  cases h
  exact unlessBusy_keeps State.zidx rfl (convert_zidx s)

theorem row_col_of_exec_convertAlloc {s t : State} (h : exec .convertAlloc s = .next t) : t.row = s.row ∧ t.col = s.col := by
  obtain ⟨hrow, hcol⟩ := convertAlloc_row_col s
  cases h
  exact ⟨unlessBusy_keeps State.row rfl hrow, unlessBusy_keeps State.col rfl hcol⟩

/-- CLEAR_STATUS changes STATUS at most, and not BUSY. -/
theorem status_of_exec_clearStatus {s t : State} (h : exec .clearStatus s = .next t) :
    ∃ st : Status, st.busy = s.status.busy ∧ t = { s with status := st } := by
  cases hb : s.status.busy with
  | true =>
    rw [exec_of_busy (i := .clearStatus) nofun hb] at h
    cases h
    exact ⟨s.status.withErr errBusyReject, hb, rfl⟩
  | false =>
    rw [exec_clearStatus_of_not_busy hb] at h
    cases h
    exact ⟨s.status.cleared, hb, rfl⟩

/-- Settles O15: what every command leaves by the moves of a CMD write, and the rest command by command. -/
theorem commandsLeaveBuffersAndConfiguration : Obligations.CommandsLeaveBuffersAndConfiguration := by
  intro i s t h
  have hm := commandMove_of_exec h
  refine ⟨hm.planes_eq, hm.out_eq, configuration_eq_iff.mp hm.configuration_eq,
    ⟨hm.inputs_eq, hm.observed_eq, hm.resetCount_eq⟩, ?_, ?_, ?_, ?_, ?_, hm.busy⟩
  · rintro (rfl | rfl)
    · obtain rfl := eq_of_exec_nop h
      exact ⟨rfl, rfl, rfl, rfl, rfl⟩
    · obtain ⟨st, -, rfl⟩ := status_of_exec_clearStatus h
      exact ⟨rfl, rfl, rfl, rfl, rfl⟩
  · rintro rfl
    exact zidx_of_exec_convert h
  · rintro rfl
    exact row_col_of_exec_convertAlloc h
  · rintro rfl
    rw [eq_of_exec_nop h]
  · rintro rfl
    obtain ⟨st, hbusy, rfl⟩ := status_of_exec_clearStatus h
    exact hbusy

/-! ### Register accesses (40_commands R100, R101) -/

theorem configWrite_of_not_busy {s : State} (hb : s.status.busy = false) (write : State → State) :
    configWrite s write = write s :=
  if_neg (Bool.eq_false_iff.mp hb)

/-- At BUSY = 0 a step that meets a write to a configuration register is that write (10_state R40). -/
theorem step_wr_config {s : State} {r : Reg} {d : Word} {write : State → State} (hb : s.status.busy = false)
    (hwrite : ∀ t, regWrite (some r) d t = .next (configWrite t write)) (rest : List Input) :
    step { s with inputs := Script.wr r d :: rest } = .next (write { s with inputs := rest }) := by
  rw [step_wr rfl, hwrite]
  exact congrArg Host.Outcome.next (configWrite_of_not_busy (s := withInputs s rest) hb write)

/-- WIDTH and HEIGHT take bits 15:0 of what is written (10_state R32, R33). -/
theorem low_half_eq (d : Word) : d.extractLsb' 0 16 = BitVec.ofNat 16 (d.toNat % 65536) := by
  apply BitVec.eq_of_toNat_eq
  simp

/-- Settles O17: a configuration register is stored whole, or in its 16 bits. -/
theorem registerWritesApplyWhenIdle : Obligations.RegisterWritesApplyWhenIdle := by
  refine ⟨fun s rest d hb => ?_, fun s rest d => (step_wr rfl).trans rfl⟩
  rw [← low_half_eq]
  refine ⟨?_, ?_, ?_, ?_, ?_, ?_, ?_⟩
  all_goals exact (step_wr_config hb (fun _ => rfl) rest).trans rfl

/-- A step that meets a read at an aligned offset records the value and does nothing else. -/
theorem step_regRead (s : State) (rest : List Input) {off : BitVec 6} (hoff : off.toNat % 4 = 0) :
    step { s with inputs := Script.plain (.regRead 32 off) :: rest } =
      .next { s with inputs := rest, observed := .reg off (regRead (regAt off) s) :: s.observed } := by
  rw [step_plain, act, if_pos ((accessLegal_iff 32 off).mpr ⟨rfl, hoff⟩)]
  cases regAt off with
  | none => rfl
  | some r => cases r <;> rfl

theorem ne_regOffset_of_regAt_none {off : BitVec 6} (h : regAt off = none) (r : Reg) : off ≠ regOffset r := by
  rintro rfl
  simp [regAt_regOffset] at h

/-- Settles O19: the value by the register at the offset, if there is one. -/
theorem registerReadsReturnStoredValues : Obligations.RegisterReadsReturnStoredValues := by
  intro s rest off hoff
  refine ⟨_, step_regRead s rest hoff, ?_⟩
  cases hr : regAt off with
  | some r =>
    obtain rfl := regOffset_of_regAt hr
    cases r with
    | width | height => exact BitVec.toNat_setWidth_of_le (by decide)
    | cmd | status | formatTag | yCap | aCap | bCap | outLen => rfl
  | none =>
    have hne := ne_regOffset_of_regAt_none hr
    symm
    exact (if_neg (hne .status)).trans <| (if_neg (hne .width)).trans <| (if_neg (hne .height)).trans <|
      (if_neg (hne .formatTag)).trans <| (if_neg (hne .yCap)).trans <| (if_neg (hne .aCap)).trans <|
      (if_neg (hne .bCap)).trans (if_neg (hne .outLen))

end Sys2Proof.Machine
end

section
/-! PROOFS of the family 41_pixel_walk: the progress of an operation is kept by every step, and the image it leaves when it
ends; the guard, the walk's single steps, and how long an operation takes. -/

namespace Sys2Proof.Machine

/-! ### Two states that hold the same frame -/

theorem SameFrame.trans {s t u : State} (h : SameFrame s t) (h' : SameFrame t u) : SameFrame s u where
  width := h.width.trans h'.width
  height := h.height.trans h'.height
  formatTag := h.formatTag.trans h'.formatTag
  yCap := h.yCap.trans h'.yCap
  aCap := h.aCap.trans h'.aCap
  bCap := h.bCap.trans h'.bCap
  outLen := h.outLen.trans h'.outLen
  planes p i := (h.planes p i).trans (h'.planes p i)

section
variable {s0 s : State} (h : SameFrame s0 s)
include h

theorem SameFrame.frameW_eq : frameW s = frameW s0 := by
  simp only [frameW, h.width]

theorem SameFrame.frameH_eq : frameH s = frameH s0 := by
  simp only [frameH, h.height]

theorem SameFrame.npix_eq : npix s = npix s0 := by
  simp only [npix, h.frameW_eq, h.frameH_eq]

theorem SameFrame.lumaCursor_eq (i j : Nat) : lumaCursor s i j = lumaCursor s0 i j := by
  simp only [lumaCursor, h.frameW_eq]

theorem SameFrame.uvPos_eq (i j : Nat) : uvPos s i j = uvPos s0 i j := by
  simp only [uvPos, uvRowBase, h.frameW_eq]

theorem SameFrame.guardTrips_eq (i j : Nat) : guardTrips s i j = guardTrips s0 i j := by
  simp only [guardTrips, ccap, h.uvPos_eq, h.lumaCursor_eq, h.yCap, h.aCap, h.bCap]

theorem SameFrame.pixelValue_eq (i j : Nat) : pixelValue s i j = pixelValue s0 i j := by
  simp only [pixelValue, h.uvPos_eq, h.lumaCursor_eq, h.planes]

end

/-- The engine changes no register of the frame and writes no plane (20_memory R53). -/
theorem EngineMove.sameFrame {s t : State} (hm : EngineMove s t) (h : SequencerInv s) : SameFrame s t :=
  .of_configuration_eq hm.configuration_eq (hm.writesOutBelow h).planes

theorem sameFrame_truncateRow (s : State) : SameFrame s (truncateRow s) :=
  .of_configuration_eq rfl (WritesOutBelow.of_buffers_eq (n := 0) rfl rfl rfl rfl).planes

theorem sameFrame_convertedPixel (s : State) : SameFrame s (convertedPixel s) :=
  .of_configuration_eq rfl (planeByte_putOut s (lumaCursor s (curRow s) (curCol s)) (pixelValue s (curRow s) (curCol s)))

/-- The engine leaves the model's copy of OUT alone. -/
theorem EngineMove.priorWord_eq {s t : State} (hm : EngineMove s t) (k : Nat) : priorWord t k = priorWord s k := by
  cases hm <;> rfl

/-! ### OUT after an engine step that writes it -/

theorem outWord_zeroedWord (s : State) (k : Nat) :
    outWord (zeroedWord s) k = if k = s.zidx.toNat then 0 else outWord s k :=
  outWord_putOut ..

theorem outWord_convertedPixel (s : State) (k : Nat) :
    outWord (convertedPixel s) k =
      if k = lumaCursor s (curRow s) (curCol s) then pixelValue s (curRow s) (curCol s) else outWord s k :=
  outWord_putOut ..

/-! ### The pixels that the walk has passed -/

/-- A pixel before the cursor has its word before the cursor's. -/
theorem lumaCursor_lt_of_cursorPassed {s : State} {i j : Nat} (hj : j < frameW s) (h : cursorPassed s i j) :
    lumaCursor s i j < lumaCursor s (curRow s) (curCol s) := by
  rcases h with hi | ⟨rfl, hj⟩
  · have hrows : (i + 1) * frameW s ≤ curRow s * frameW s := Nat.mul_le_mul_right _ hi
    rw [Nat.succ_mul] at hrows
    simp only [lumaCursor]
    omega
  · simp only [lumaCursor]
    omega

/-- A truncated row is passed whole (41_pixel_walk R134). -/
theorem cursorPassed_truncateRow {s : State} (hr : curRow s < frameH s) (i j : Nat) :
    cursorPassed (truncateRow s) i j ↔ i ≤ curRow s := by
  have hc : curCol (truncateRow s) = 0 := rfl
  rw [cursorPassed, curRow_truncateRow hr, hc]
  omega

/-- A converted pixel is passed, and no other pixel of the frame with it (R132, R133). -/
theorem cursorPassed_convertedPixel {s : State} (hr : curRow s < frameH s) (hc : curCol s < frameW s) {i j : Nat}
    (hj : j < frameW s) :
    cursorPassed (convertedPixel s) i j ↔ cursorPassed s i j ∨ i = curRow s ∧ j = curCol s := by
  simp only [cursorPassed, curRow_convertedPixel hr, curCol_convertedPixel]
  split <;> omega

/-- When the walk is over it has passed every pixel of the frame (R136). -/
theorem cursorPassed_of_end {s : State} (he : curRow s = frameH s ∨ frameW s = 0) {i j : Nat} (hi : i < frameH s)
    (hj : j < frameW s) : cursorPassed s i j := by
  rcases he with he | he
  · exact .inl (he ▸ hi)
  · omega

/-! ### The progress of a walk, over any contents of OUT -/

/-- How far a walk is at `s` that found the frame of `s0`, the words `base` in OUT, and TRUNC at `cut`. -/
structure WalkProgress (base : Nat → Word) (cut : Bool) (s0 s : State) : Prop where
  frame : SameFrame s0 s
  passed : ∀ i j, i < frameH s0 → j < frameW s0 → cursorPassed s i j →
    outWord s (lumaCursor s0 i j) = if guardTrips s0 i j then base (lumaCursor s0 i j) else pixelValue s0 i j
  ahead : ∀ k, npix s0 ≤ k ∨ lumaCursor s0 (curRow s) (curCol s) ≤ k → outWord s k = base k
  truncated : s.status.trunc = true ↔
    cut = true ∨ ∃ i j, i < frameH s0 ∧ j < frameW s0 ∧ cursorPassed s i j ∧ guardTrips s0 i j = true

/-- What that walk leaves in `t` when it is over (41_pixel_walk R131, R135, 43_output_packer R168). -/
structure WalkImage (base : Nat → Word) (cut : Bool) (s0 t : State) : Prop where
  words : ∀ i j, i < frameH s0 → j < frameW s0 →
    outWord t (lumaCursor s0 i j) = if guardTrips s0 i j then base (lumaCursor s0 i j) else pixelValue s0 i j
  beyond : ∀ k, npix s0 ≤ k → outWord t k = base k
  truncated : t.status.trunc = true ↔
    cut = true ∨ ∃ i j, i < frameH s0 ∧ j < frameW s0 ∧ guardTrips s0 i j = true

section
variable {base : Nat → Word} {cut : Bool} {s0 s : State}

/-- At the first pixel every word is still a base word. -/
theorem WalkProgress.of_first (hframe : SameFrame s0 s) (hr : curRow s = 0) (hc : curCol s = 0)
    (hwords : ∀ k, outWord s k = base k) (hcut : s.status.trunc = cut) : WalkProgress base cut s0 s where
  frame := hframe
  passed i j _ _ hij := absurd hij (not_cursorPassed_of_first hr hc i j)
  ahead k _ := hwords k
  truncated := by simp [not_cursorPassed_of_first hr hc, hcut]

/-- The rest of a truncated row keeps its base words: the guard trips at each of its pixels. -/
theorem WalkProgress.truncateRow (h : WalkProgress base cut s0 s) (hr : curRow s < frameH s) (hc : curCol s < frameW s)
    (hg : guardTrips s (curRow s) (curCol s) = true) : WalkProgress base cut s0 (truncateRow s) where
  frame := h.frame.trans (sameFrame_truncateRow s)
  passed i j hi hj hpassed := by
    rw [cursorPassed_truncateRow hr] at hpassed
    by_cases hbefore : cursorPassed s i j
    · exact h.passed i j hi hj hbefore
    · obtain ⟨rfl, hcol⟩ : i = curRow s ∧ curCol s ≤ j := by
        rw [cursorPassed] at hbefore
        omega
      rw [← h.frame.guardTrips_eq, if_pos (guardTrips_mono hg hcol)]
      exact h.ahead _ (.inr (Nat.add_le_add_left hcol _))
  ahead k hk := by
    refine h.ahead k (hk.imp id fun hk => Nat.le_trans (Nat.le_of_lt ?_) hk)
    rw [← h.frame.lumaCursor_eq, ← h.frame.lumaCursor_eq, curRow_truncateRow hr]
    exact lumaCursor_lt_next_row hc
  truncated := iff_of_true rfl (.inr ⟨curRow s, curCol s, h.frame.frameH_eq ▸ hr, h.frame.frameW_eq ▸ hc,
    (cursorPassed_truncateRow hr _ _).mpr (Nat.le_refl _), h.frame.guardTrips_eq _ _ ▸ hg⟩)

/-- A converted pixel has its own word, and no other word changes. -/
theorem WalkProgress.convertedPixel (h : WalkProgress base cut s0 s) (hr : curRow s < frameH s) (hc : curCol s < frameW s)
    (hg : guardTrips s (curRow s) (curCol s) = false) : WalkProgress base cut s0 (convertedPixel s) := by
  have hpassed {i j : Nat} (hj : j < frameW s0) :
      cursorPassed (Machine.convertedPixel s) i j ↔ cursorPassed s i j ∨ i = curRow s ∧ j = curCol s :=
    cursorPassed_convertedPixel hr hc (h.frame.frameW_eq ▸ hj)
  have hframe := h.frame.trans (sameFrame_convertedPixel s)
  constructor
  case frame => exact hframe
  case passed =>
    intro i j hi hj hij
    rw [outWord_convertedPixel, ← h.frame.lumaCursor_eq]
    rcases (hpassed hj).mp hij with hij | ⟨rfl, rfl⟩
    · have hlt := lumaCursor_lt_of_cursorPassed (h.frame.frameW_eq ▸ hj) hij
      rw [if_neg (Nat.ne_of_lt hlt), h.frame.lumaCursor_eq]
      exact h.passed i j hi hj hij
    · rw [if_pos rfl, ← h.frame.guardTrips_eq, hg, h.frame.pixelValue_eq]
      rfl
  case ahead =>
    intro k hk
    have hin := lumaCursor_lt_npix hr hc
    rw [← hframe.lumaCursor_eq, lumaCursor_convertedPixel hr hc, ← h.frame.npix_eq] at hk
    rw [outWord_convertedPixel, if_neg (by omega)]
    refine h.ahead k (.inr ?_)
    rw [← h.frame.lumaCursor_eq]
    omega
  case truncated =>
    refine h.truncated.trans (or_congr_right ⟨?_, ?_⟩)
    · rintro ⟨i, j, hi, hj, hij, hgij⟩
      exact ⟨i, j, hi, hj, (hpassed hj).mpr (.inl hij), hgij⟩
    · rintro ⟨i, j, hi, hj, hij, hgij⟩
      rcases (hpassed hj).mp hij with hij | ⟨rfl, rfl⟩
      · exact ⟨i, j, hi, hj, hij, hgij⟩
      · rw [← h.frame.guardTrips_eq, hg] at hgij
        cases hgij

/-- Every engine step of the walk but the last keeps the walk's progress. -/
theorem WalkProgress.engineMove {t : State} (h : WalkProgress base cut s0 s) (hinv : SequencerInv s) (hp : s.phase = .conv)
    (hm : EngineMove s t) (ht : t.phase ≠ .idle) : t.phase = .conv ∧ WalkProgress base cut s0 t := by
  cases hm with
  | idle hp' | zero hp' | zeroSkip hp' | zeroDone hp' => simp [hp] at hp'
  | complete => exact absurd rfl ht
  | truncate _ hr hw hg =>
    obtain ⟨hr, hc⟩ := hinv.cursor_in_frame hp hr hw
    exact ⟨hp, h.truncateRow hr hc hg⟩
  | pixel _ hr hw hg hl =>
    obtain ⟨hr, hc⟩ := hinv.cursor_in_frame hp hr hw
    exact ⟨hp, h.convertedPixel hr hc hg⟩

/-- A walk that is over leaves its image. -/
theorem WalkProgress.image (h : WalkProgress base cut s0 s) (he : curRow s = frameH s ∨ frameW s = 0) :
    WalkImage base cut s0 (complete s) := by
  have hpassed {i j : Nat} (hi : i < frameH s0) (hj : j < frameW s0) : cursorPassed s i j :=
    cursorPassed_of_end he (h.frame.frameH_eq ▸ hi) (h.frame.frameW_eq ▸ hj)
  constructor
  case words => exact fun i j hi hj => h.passed i j hi hj (hpassed hi hj)
  case beyond => exact fun k hk => h.ahead k (.inl hk)
  case truncated =>
    refine h.truncated.trans (or_congr_right ⟨?_, ?_⟩)
    · rintro ⟨i, j, hi, hj, -, hg⟩
      exact ⟨i, j, hi, hj, hg⟩
    · rintro ⟨i, j, hi, hj, hg⟩
      exact ⟨i, j, hi, hj, hpassed hi hj, hg⟩

/-- The engine step that ends a walk leaves its image. -/
theorem WalkProgress.image_of_engineMove {t : State} (h : WalkProgress base cut s0 s) (hp : s.phase = .conv)
    (hm : EngineMove s t) (ht : t.phase = .idle) : WalkImage base cut s0 t := by
  cases hm with
  | idle hp' | zero hp' | zeroSkip hp' | zeroDone hp' => simp [hp] at hp'
  | complete _ he => exact h.image he
  | truncate | pixel => exact absurd (hp.symm.trans ht) nofun

end

/-! ### The progress of an operation -/

/-- From NPIX on the base words are those before the operation, a CONVERT_ALLOC or not (43_output_packer R168). -/
theorem baseWord_of_npix_le {s0 : State} {k : Nat} (alloc : Bool) (hk : npix s0 ≤ k) : baseWord alloc s0 k = outWord s0 k := by
  simp [baseWord, Nat.not_lt.mpr hk]

/-- The base words of a CONVERT_ALLOC are those its zero-fill leaves (R166). -/
theorem baseWord_alloc (s0 : State) (k : Nat) : baseWord true s0 k = if k < npix s0 then 0 else outWord s0 k := by
  simp [baseWord]

section
variable {alloc : Bool} {s0 s t : State}

/-- In CONV an operation's progress is the progress of a walk over its base words that found TRUNC at 0. -/
theorem OpProgress.walkProgress (h : OpProgress alloc s0 s) (hp : s.phase = .conv) :
    WalkProgress (baseWord alloc s0) false s0 s where
  frame := h.frame
  passed := h.passed hp
  ahead := h.ahead hp
  truncated := (h.truncated hp).trans (by simp)

theorem OpProgress.of_walkProgress (hw : WalkProgress (baseWord alloc s0) false s0 s) (hp : s.phase = .conv)
    (hprior : ∀ k, priorWord s k = outWord s0 k) (hskip : s.status.fmtSkip = false)
    (hf : s0.formatTag = Config.fmtYuv420) : OpProgress alloc s0 s where
  frame := hw.frame
  prior := hprior
  notSkipped _ := hskip
  zeroFilled hz := by simp [hp] at hz
  format _ := hf
  passed _ := hw.passed
  ahead _ := hw.ahead
  truncated _ := hw.truncated.trans (by simp)

/-- In ZFILL only the zero-filled words are asked for. -/
theorem OpProgress.of_zfill (hframe : SameFrame s0 s) (hp : s.phase = .zfill) (hprior : ∀ k, priorWord s k = outWord s0 k)
    (hskip : s.status.fmtSkip = false) (htrunc : s.status.trunc = false)
    (hwords : ∀ k, outWord s k = if k < s.zidx.toNat then 0 else outWord s0 k) : OpProgress true s0 s where
  frame := hframe
  prior := hprior
  notSkipped _ := hskip
  zeroFilled _ := ⟨rfl, htrunc, hwords⟩
  format hc := by simp [hp] at hc
  passed hc := by simp [hp] at hc
  ahead hc := by simp [hp] at hc
  truncated hc := by simp [hp] at hc

/-- When the zero-fill is over every word is at its base value. -/
theorem OpProgress.outWord_of_zfill_end (h : OpProgress alloc s0 s) (hinv : SequencerInv s) (hp : s.phase = .zfill)
    (hz : npix s ≤ s.zidx.toNat) (k : Nat) : outWord s k = baseWord alloc s0 k := by
  obtain ⟨rfl, -, hwords⟩ := h.zeroFilled hp
  have hend : s.zidx.toNat = npix s := Nat.le_antisymm (hinv.zfillInBounds hp).1 hz
  rw [hwords, hend, h.frame.npix_eq, baseWord_alloc]

/-- Every engine step but the last keeps the progress of an operation. -/
theorem EngineMove.opProgress (hm : EngineMove s t) (hinv : SequencerInv s) (h : OpProgress alloc s0 s)
    (hp : s.phase ≠ .idle) (ht : t.phase ≠ .idle) : OpProgress alloc s0 t := by
  have hframe : SameFrame s0 t := h.frame.trans (hm.sameFrame hinv)
  have hprior (k : Nat) : priorWord t k = outWord s0 k := (hm.priorWord_eq k).trans (h.prior k)
  have hskip : s.status.fmtSkip = false := h.notSkipped hp
  have walk (hc : s.phase = .conv) (hkeep : t.status.fmtSkip = s.status.fmtSkip) : OpProgress alloc s0 t := by
    obtain ⟨htc, hw⟩ := (h.walkProgress hc).engineMove hinv hc hm ht
    exact .of_walkProgress hw htc hprior (hkeep.trans hskip) (h.format hc)
  cases hm with
  | idle hi => exact absurd hi hp
  | zero hz hlt hl =>
    obtain ⟨rfl, htrunc, hwords⟩ := h.zeroFilled hz
    refine .of_zfill hframe hz hprior hskip htrunc fun k => ?_
    rw [zidx_zeroedWord_toNat hlt, outWord_zeroedWord, hwords]
    by_cases hk : k = s.zidx.toNat
    · rw [if_pos hk, if_pos (by omega)]
    · rw [if_neg hk]
      exact if_congr (by omega) rfl rfl
  | zeroSkip | complete => exact absurd rfl ht
  | zeroDone hz hle hf =>
    have htrunc : s.status.trunc = false := (h.zeroFilled hz).2.1
    have hw := WalkProgress.of_first hframe rfl rfl (h.outWord_of_zfill_end hinv hz hle) htrunc
    exact .of_walkProgress hw rfl hprior hskip (h.frame.formatTag.trans hf)
  | truncate hc | pixel hc => exact walk hc rfl

/-- The engine step that ends an operation leaves the image the operation is to leave. -/
theorem EngineMove.opEnded (hm : EngineMove s t) (hinv : SequencerInv s) (h : OpProgress alloc s0 s)
    (hp : s.phase ≠ .idle) (ht : t.phase = .idle) : OpEnded alloc s0 t := by
  have hskip : s.status.fmtSkip = false := h.notSkipped hp
  cases hm with
  | idle hi => exact absurd hi hp
  | zero hz | truncate hz | pixel hz => exact absurd (hz.symm.trans ht) nofun
  | zeroDone => cases ht
  | zeroSkip hz hle hf =>
    have hf0 : s0.formatTag ≠ Config.fmtYuv420 := h.frame.formatTag ▸ hf
    have hwords := h.outWord_of_zfill_end hinv hz hle
    have htrunc : s.status.trunc = false := (h.zeroFilled hz).2.1
    constructor
    case reported => exact ⟨rfl, rfl⟩
    case skipped => exact iff_of_true rfl hf0
    case converted => exact fun _ _ _ _ hf => absurd hf hf0
    case skippedWords => exact fun i j _ _ _ => hwords _
    case beyond => exact fun k hk => (hwords k).trans (baseWord_of_npix_le alloc hk)
    case truncated => exact iff_of_false (by simp [htrunc]) fun hf => hf0 hf.1
  | complete hc he =>
    have hf0 := h.format hc
    have image := (h.walkProgress hc).image he
    constructor
    case reported => exact ⟨rfl, rfl⟩
    case skipped => exact iff_of_false (by simp [hskip]) (not_not_intro hf0)
    case converted => exact fun i j hi hj _ hg => (image.words i j hi hj).trans (by simp [hg])
    case skippedWords =>
      intro i j hi hj hor
      have hg : guardTrips s0 i j = true := hor.resolve_left (not_not_intro hf0)
      exact (image.words i j hi hj).trans (by simp [hg, lumaCursor])
    case beyond => exact fun k hk => (image.beyond k hk).trans (baseWord_of_npix_le alloc hk)
    case truncated => exact image.truncated.trans (by simp [hf0])

end

/-! ### A step while an operation is under way, under every interleaving -/

/-- What a host action can change while BUSY = 1: ERR, and the host's own side. -/
def hostTouched (s : State) (e : BitVec 4) (l : List Input) (o : List Observation) : State :=
  { s with status := s.status.withErr e, inputs := l, observed := o }

theorem sameFrame_hostTouched (s : State) (e : BitVec 4) (l : List Input) (o : List Observation) :
    SameFrame s (hostTouched s e l o) :=
  .of_configuration_eq rfl (WritesOutBelow.of_buffers_eq (n := 0) rfl rfl rfl rfl).planes

theorem OpProgress.hostTouched {alloc : Bool} {s0 s : State} (h : OpProgress alloc s0 s) (e : BitVec 4) (l : List Input)
    (o : List Observation) : OpProgress alloc s0 (hostTouched s e l o) where
  frame := h.frame.trans (sameFrame_hostTouched s e l o)
  prior := h.prior
  notSkipped := h.notSkipped
  zeroFilled := h.zeroFilled
  format := h.format
  passed := h.passed
  ahead := h.ahead
  truncated := h.truncated

/-- While BUSY = 1 a command changes ERR at most (40_commands R107 to R109). -/
theorem CommandMove.of_busy {s t : State} (hm : CommandMove s t) (hb : s.status.busy = true) :
    ∃ e, t = hostTouched s e s.inputs s.observed := by
  cases hm with
  | nop => exact ⟨s.status.err, rfl⟩
  | illegal | rejected => exact ⟨_, rfl⟩
  | tooSmall hb' | skipped hb' | convert hb' | alloc hb' | clear hb' => simp [hb] at hb'

/-- While BUSY = 1 an action is a turn of the engine, or leaves the operation alone. -/
theorem ActMove.of_busy {s t : State} {a : Action} (hm : ActMove s a t) (hb : s.status.busy = true) :
    (a = .engine ∧ EngineMove s t) ∨ (a ≠ .engine ∧ ∃ e l o, t = hostTouched s e l o) := by
  cases hm with
  | engine hm => exact .inl ⟨rfl, hm⟩
  | command c hc hm =>
    obtain ⟨e, he⟩ := hm.of_busy hb
    exact .inr ⟨nofun, e, _, _, he⟩
  | dropped => exact .inr ⟨nofun, errBusyReject, _, _, rfl⟩
  | config _ _ hb' | planeWrite _ _ _ hb' | outWrite _ _ hb' => simp [hb] at hb'
  | ignored | regRead | poll | planeRead | outRead | outByteRead => exact .inr ⟨nofun, s.status.err, _, _, rfl⟩

/-- While BUSY = 1 a step that is no reset is the engine's, on the engine's turns and on no other, or leaves the operation
alone (20_memory R60, R66). -/
theorem StepMove.of_busy {s t : State} (hm : StepMove s t) (hb : s.status.busy = true) (hr : ¬ resetNext s) :
    (engineNext s ∧ ∃ l, EngineMove (withInputs s l) t) ∨ (¬ engineNext s ∧ ∃ e l o, t = hostTouched s e l o) := by
  cases hm with
  | alone hi hm => exact .inl ⟨.inl hi, s.inputs, hm⟩
  | reset a rest hi => exact absurd ⟨_, rest, hi, rfl⟩ hr
  | act a rest hi hm =>
    rcases hm.of_busy hb with ⟨rfl, he⟩ | ⟨ha, e, l, o, rfl⟩
    · exact .inl ⟨.inr ⟨rest, hi⟩, rest, he⟩
    · refine .inr ⟨?_, e, l, o, rfl⟩
      simp [engineNext, hi, ha]

theorem OpProgress.withInputs {alloc : Bool} {s0 s : State} (h : OpProgress alloc s0 s) (l : List Input) :
    OpProgress alloc s0 (withInputs s l) :=
  h.hostTouched s.status.err l s.observed

/-- Settles O56: the engine's moves keep the progress, and the host's leave the operation alone. -/
theorem operationProgressKept : Obligations.OperationProgressKept := by
  intro alloc s0 s t hinv h hp hr hstep ht
  have hm := stepMove_of_step hstep
  refine ⟨hm.sequencerInv hinv, ?_⟩
  rcases hm.of_busy (hinv.busyIffActive.mpr hp) hr with ⟨-, l, hm⟩ | ⟨-, e, l, o, rfl⟩
  · exact hm.opProgress (hinv.of_control_eq rfl) (h.withInputs l) hp ht
  · exact h.hostTouched e l o

/-- Settles O57: only the engine ends an operation, by the end of the walk or by the format check. -/
theorem operationEndsWithItsImage : Obligations.OperationEndsWithItsImage := by
  intro alloc s0 s t hinv h hp hr hstep ht
  rcases (stepMove_of_step hstep).of_busy (hinv.busyIffActive.mpr hp) hr with ⟨-, l, hm⟩ | ⟨-, e, l, o, rfl⟩
  · have hinv' : SequencerInv (withInputs s l) := hinv.of_control_eq rfl
    have h' := h.withInputs l
    exact ⟨h'.frame.trans (hm.sameFrame hinv'), hm.opEnded hinv' h' hp ht⟩
  · exact absurd ht hp

/-! ### How long an operation takes (41_pixel_walk R136, R137) -/

/-- The step that ends an operation reports it. -/
theorem EngineMove.reported {s t : State} (hm : EngineMove s t) (hp : s.phase ≠ .idle) (ht : t.phase = .idle) :
    t.status.busy = false ∧ t.status.done = true := by
  cases hm with
  | idle => exact absurd ht hp
  | zero | truncate | pixel => exact absurd ht hp
  | zeroDone => cases ht
  | zeroSkip | complete => exact ⟨rfl, rfl⟩

theorem remaining_conv_le {s : State} (hp : s.phase = .conv) : remaining s ≤ npix s + 1 := by
  rw [remaining_of_conv hp]
  omega

theorem remaining_le (s : State) : remaining s ≤ 2 * npix s + 2 := by
  cases hp : s.phase with
  | idle =>
    rw [remaining_of_idle hp]
    exact Nat.zero_le _
  | zfill =>
    rw [remaining_of_zfill hp]
    omega
  | conv =>
    have hle := remaining_conv_le hp
    omega

theorem remaining_eq_zero_iff (s : State) : remaining s = 0 ↔ s.phase = .idle := by
  constructor
  · intro h
    by_contra hp
    exact absurd h (Nat.ne_of_gt (remaining_pos hp))
  · exact remaining_of_idle

/-- Settles O58: the engine's moves leave less to do, and the host's leave the operation alone. -/
theorem engineStepsShrinkTheRemainder : Obligations.EngineStepsShrinkTheRemainder := by
  intro s t hinv hp hr hstep
  refine ⟨remaining_le s, remaining_conv_le, ?_⟩
  rcases (stepMove_of_step hstep).of_busy (hinv.busyIffActive.mpr hp) hr with ⟨hn, l, hm⟩ | ⟨hn, e, l, o, rfl⟩
  · have hlt : remaining t < remaining s := hm.remaining_lt (hinv.of_control_eq rfl) hp
    exact ⟨fun _ => hlt, fun h => absurd hn h, remaining_eq_zero_iff t, hm.reported hp⟩
  · exact ⟨fun h => absurd h hn, fun _ => ⟨remaining_of_control_eq rfl, rfl⟩, remaining_eq_zero_iff _,
      fun ht => absurd ht hp⟩

/-! ### Runs with no further host action -/

/-- The first step of a run that answers a next state. -/
theorem step_of_run_succ {n : Nat} {s t : State} (h : run (n + 1) s = .next t) :
    ∃ u, step s = .next u ∧ run n u = .next t := by
  simp only [run] at h
  split at h
  · rename_i u hu
    exact ⟨u, hu, h⟩
  · cases h
  · cases h

/-- Left alone, the engine ends the operation, in as many steps as `remaining` allows. -/
theorem run_alone_ends {s : State} (h : SequencerInv s) (hi : s.inputs = []) (hp : s.phase ≠ .idle) :
    ∃ n t, n ≤ remaining s ∧ run n s = .next t ∧ t.phase = .idle ∧ t.status.busy = false ∧ t.status.done = true := by
  induction hr : remaining s using Nat.strong_induction_on generalizing s with
  | _ r ih =>
    subst hr
    obtain ⟨u, hu⟩ := engineStep_next h
    have hm := engineMove_of_engineStep hu
    have hstep : step s = .next u := (step_alone hi).trans hu
    have hlt := hm.remaining_lt h hp
    by_cases hq : u.phase = .idle
    · exact ⟨1, u, remaining_pos hp, run_succ_of_step hstep 0, hq, hm.reported hp hq⟩
    · obtain ⟨n, t, hn, hrun, hdone⟩ := ih _ hlt (hm.sequencerInv h) (hm.inputs_eq.trans hi) hq rfl
      exact ⟨n + 1, t, by omega, (run_succ_of_step hstep n).trans hrun, hdone⟩

/-- Left alone, the engine zeroes one word a step until the frame's words are zeroed. -/
theorem run_zfill {s : State} (h : SequencerInv s) (hi : s.inputs = []) (hp : s.phase = .zfill) {n : Nat}
    (hn : n ≤ npix s - s.zidx.toNat) :
    ∃ t, run n s = .next t ∧ SequencerInv t ∧ t.inputs = [] ∧ t.phase = .zfill ∧ npix t = npix s ∧
      t.zidx.toNat = s.zidx.toNat + n := by
  induction n with
  | zero => exact ⟨s, rfl, h, hi, hp, rfl, rfl⟩
  | succ n ih =>
    obtain ⟨t, hrun, hinv, hti, htp, htn, hz⟩ := ih (by omega)
    have hlt : t.zidx.toNat < npix t := by omega
    have hlong := hinv.outLongEnough (by simp [htp])
    have hm : EngineMove t (zeroedWord t) := .zero htp hlt (by omega)
    have hstep : step t = .next (zeroedWord t) := (step_alone hti).trans (engineStep_of_engineMove hm)
    refine ⟨zeroedWord t, (run_add 1 hrun).trans (run_succ_of_step hstep 0), hm.sequencerInv hinv, hti, htp, htn, ?_⟩
    rw [zidx_zeroedWord_toNat hlt, hz, Nat.add_assoc]

/-- The zero-fill is over at ZIDX = NPIX. -/
theorem EngineMove.leaves_zfill {s t : State} (hm : EngineMove s t) (hp : s.phase = .zfill) (hz : npix s ≤ s.zidx.toNat) :
    t.phase ≠ .zfill := by
  cases hm with
  | zero _ hlt => omega
  | idle hp' | truncate hp' | pixel hp' => simp [hp] at hp'
  | zeroSkip | zeroDone | complete => nofun

/-- Settles O39: the zero-fill word by word, and the whole operation by what is left of it. -/
theorem operationsTerminate : Obligations.OperationsTerminate := by
  intro s h hi
  constructor
  · intro hp
    obtain ⟨n, t, hn, hdone⟩ := run_alone_ends h hi (by simp [hp])
    exact ⟨n, t, Nat.le_trans hn (remaining_conv_le hp), hdone⟩
  · intro hp
    refine ⟨fun n hn => ?_, ?_, ?_⟩
    · obtain ⟨t, hrun, -, -, htp, -⟩ := run_zfill h hi hp hn
      exact ⟨t, hrun, htp⟩
    · obtain ⟨t, hrun, hinv, hti, htp, htn, hz⟩ := run_zfill h hi hp (Nat.le_refl _)
      obtain ⟨u, hu⟩ := engineStep_next hinv
      have hstep : step t = .next u := (step_alone hti).trans hu
      exact ⟨u, (run_add 1 hrun).trans (run_succ_of_step hstep 0),
        (engineMove_of_engineStep hu).leaves_zfill htp (by omega)⟩
    · obtain ⟨n, t, hn, hdone⟩ := run_alone_ends h hi (by simp [hp])
      rw [remaining_of_zfill hp] at hn
      exact ⟨n, t, hn, hdone⟩

/-- A walk that is left alone until PHASE is IDLE again leaves its image. -/
theorem WalkProgress.image_of_run {base : Nat → Word} {cut : Bool} {s0 s t : State} {n : Nat}
    (h : WalkProgress base cut s0 s) (hinv : SequencerInv s) (hi : s.inputs = []) (hp : s.phase = .conv)
    (hrun : run n s = .next t) (ht : t.phase = .idle) : WalkImage base cut s0 t := by
  induction n generalizing s with
  | zero =>
    cases hrun
    simp [hp] at ht
  | succ n ih =>
    obtain ⟨u, hstep, hrun⟩ := step_of_run_succ hrun
    have hm : EngineMove s u := engineMove_of_engineStep ((step_alone hi).symm.trans hstep)
    have hui : u.inputs = [] := hm.inputs_eq.trans hi
    by_cases hu : u.phase = .idle
    · rw [run_idle n hu hui] at hrun
      cases hrun
      exact h.image_of_engineMove hp hm hu
    · obtain ⟨huc, hw⟩ := h.engineMove hinv hp hm hu
      exact ih hw (hm.sequencerInv hinv) hui huc hrun

/-- Settles O41: a walk from the first pixel, over the words OUT holds. -/
theorem conversionWritesExactlyUnguardedPixels : Obligations.ConversionWritesExactlyUnguardedPixels := by
  intro s t n hinv hp hrow hcol hi hrun ht
  have hstart : WalkProgress (outWord s) s.status.trunc s s :=
    .of_first (.of_configuration_eq rfl fun _ _ => rfl) (by simp [curRow, hrow]) (by simp [curCol, hcol]) (fun _ => rfl) rfl
  obtain ⟨hwords, hbeyond, htrunc⟩ := hstart.image_of_run hinv hi hp hrun ht
  exact ⟨hwords, hbeyond, htrunc⟩

/-- Settles O44: by induction on the steps, each of which answers and keeps both conditions. -/
theorem runsWithoutBufferWritesNeverStop : Obligations.RunsWithoutBufferWritesNeverStop := by
  intro s h hin n
  induction n generalizing s with
  | zero => exact ⟨s, rfl⟩
  | succ n ih =>
    obtain ⟨u, hu, hinv, huin⟩ := nonWritingInputsKeepRunning s h hin
    obtain ⟨t, ht⟩ := ih u hinv huin
    exact ⟨t, (run_succ_of_step hu n).trans ht⟩

/-! ### The bounds guard (41_pixel_walk R128, R138, R139) -/

/-- The guard has not tripped, in the registers' numbers. -/
theorem guardTrips_eq_false_iff (s : State) (i j : Nat) :
    guardTrips s i j = false ↔ uvPos s i j + 1 < ccap s ∧ lumaCursor s i j < s.yCap.toNat := by
  simp [guardTrips]

theorem guardTrips_of_luma {s : State} {i j : Nat} (h : s.yCap.toNat ≤ lumaCursor s i j) : guardTrips s i j = true :=
  (guardTrips_iff s i j).mpr (.inr h)

theorem guardTrips_of_chroma {s : State} {i j : Nat} (h : ccap s ≤ uvPos s i j + 1) : guardTrips s i j = true :=
  (guardTrips_iff s i j).mpr (.inl h)

/-- The chroma cursor grows with the row pair and with the column. -/
theorem uvPos_mono {s : State} {i i' j j' : Nat} (hi : i / 2 ≤ i' / 2) (hj : j ≤ j') : uvPos s i j ≤ uvPos s i' j' := by
  have hrow : i / 2 * frameW s ≤ i' / 2 * frameW s := Nat.mul_le_mul_right _ hi
  simp only [uvPos, uvRowBase]
  omega

/-- The next row pair starts behind every chroma cursor of a row (R138). -/
theorem uvPos_lt_next_pair {s : State} {i i' j : Nat} (hj : j < frameW s) (hi : i / 2 < i' / 2) :
    uvPos s i j < uvPos s i' 0 := by
  have hrow : (i / 2 + 1) * frameW s ≤ i' / 2 * frameW s := Nat.mul_le_mul_right _ hi
  rw [Nat.succ_mul] at hrow
  simp only [uvPos, uvRowBase]
  omega

/-- The start of a later row is behind every luma cursor of a row (R138). -/
theorem lumaCursor_lt_later_row {s : State} {i i' j : Nat} (hj : j < frameW s) (hi : i < i') :
    lumaCursor s i j < lumaCursor s i' 0 := by
  have hrow : (i + 1) * frameW s ≤ i' * frameW s := Nat.mul_le_mul_right _ hi
  rw [Nat.succ_mul] at hrow
  simp only [lumaCursor]
  omega

/-- Settles O37: rows of one pair share their chroma cursors, and later rows start behind the one that trips. -/
theorem truncationOfLaterRows : Obligations.TruncationOfLaterRows := by
  intro s i j hj
  refine ⟨?luma, ?pair, ?later⟩
  case luma =>
    intro htrip i' hi
    exact guardTrips_of_luma (Nat.le_trans htrip (Nat.le_of_lt (lumaCursor_lt_later_row hj hi)))
  case pair =>
    intro htrip heven
    have hpair : (i + 1) / 2 = i / 2 := by omega
    constructor
    · intro j' hj'
      have hpos : uvPos s i j ≤ uvPos s (i + 1) j' := uvPos_mono (Nat.le_of_eq hpair.symm) hj'
      exact guardTrips_of_chroma (by omega)
    · intro hrow j' hj' hluma
      obtain ⟨hchroma, -⟩ := (guardTrips_eq_false_iff s i j').mp (hrow j' hj')
      have hpos : uvPos s (i + 1) j' ≤ uvPos s i j' := uvPos_mono (Nat.le_of_eq hpair) (Nat.le_refl _)
      exact (guardTrips_eq_false_iff s (i + 1) j').mpr ⟨by omega, hluma⟩
  case later =>
    intro htrip i' hi
    have hpos : uvPos s i j < uvPos s i' 0 := uvPos_lt_next_pair hj (by omega)
    exact guardTrips_of_chroma (by omega)

/-- The last pixel of a frame has the last luma cursor (41_pixel_walk R139). -/
theorem lumaCursor_last {s : State} (hh : 0 < frameH s) (hw : 0 < frameW s) :
    lumaCursor s (frameH s - 1) (frameW s - 1) + 1 = npix s := by
  obtain ⟨h, hh⟩ := Nat.exists_eq_succ_of_ne_zero (Nat.ne_of_gt hh)
  simp only [lumaCursor, npix, hh, Nat.succ_sub_one, Nat.mul_succ, Nat.mul_comm h]
  omega

/-- Settles O38: the last pixel has the greatest cursors of the frame. -/
theorem fullConversionCondition : Obligations.FullConversionCondition := by
  intro s hn
  have hw : 0 < frameW s := Nat.pos_of_mul_pos_right hn
  have hh : 0 < frameH s := Nat.pos_of_mul_pos_left hn
  have hlast := lumaCursor_last hh hw
  have huv : uvPos s (frameH s - 1) (frameW s - 1) = (frameH s - 1) / 2 * frameW s + 2 * ((frameW s - 1) / 2) := rfl
  refine ⟨⟨?reach, ?noTrip⟩, ?even⟩
  case reach =>
    intro hnone
    obtain ⟨hc, hy⟩ := (guardTrips_eq_false_iff s _ _).mp (hnone (frameH s - 1) (frameW s - 1) (by omega) (by omega))
    omega
  case noTrip =>
    rintro ⟨hy, hc⟩ i j hi hj
    have hluma := lumaCursor_lt_npix hi hj
    have hpos : uvPos s i j ≤ uvPos s (frameH s - 1) (frameW s - 1) := uvPos_mono (by omega) (by omega)
    exact (guardTrips_eq_false_iff s i j).mpr ⟨by omega, by omega⟩
  case even =>
    intro hwe hhe
    obtain ⟨a, ha⟩ : ∃ a, frameW s = 2 * a + 2 := ⟨frameW s / 2 - 1, by omega⟩
    obtain ⟨b, hb⟩ : ∃ b, frameH s = 2 * b + 2 := ⟨frameH s / 2 - 1, by omega⟩
    rw [ha, hb, show (2 * b + 2 - 1) / 2 = b by omega, show (2 * a + 2 - 1) / 2 = a by omega]
    refine (Nat.div_eq_of_eq_mul_left (by decide) ?_).symm
    ring

/-! ### Single steps of the engine -/

/-- Settles O33: the guard in the registers' numbers. -/
theorem guardTripAbandonsRow : Obligations.GuardTripAbandonsRow := by
  constructor
  · intro s hp hr hw htrip
    have hg : guardTrips s (curRow s) (curCol s) = true := (guardTrips_iff s _ _).mpr htrip
    exact engineStep_of_engineMove (.truncate hp hr hw hg)
  · intro s i j hcap
    rcases hcap with hy | ha | hb
    · exact guardTrips_of_luma (by simp [hy])
    · exact guardTrips_of_chroma (Nat.le_trans (Nat.min_le_left _ _) (by omega))
    · exact guardTrips_of_chroma (Nat.le_trans (Nat.min_le_right _ _) (by omega))

/-- Settles O34: the move of a converted pixel, field by field. -/
theorem convertedPixelIsStoredAtItsCursor : Obligations.ConvertedPixelIsStoredAtItsCursor := by
  intro s hinv hp hr hw hg
  obtain ⟨hrow, hcol⟩ := hinv.cursor_in_frame hp hr hw
  have hlong := hinv.outLongEnough (by simp [hp])
  have hin : lumaCursor s (curRow s) (curCol s) < s.outLen.toNat := Nat.lt_of_lt_of_le (lumaCursor_lt_npix hrow hcol) hlong
  refine ⟨convertedPixel s, engineStep_of_engineMove (.pixel hp hr hw hg hin), ?_, fun a ha => ?_, fun hnext => ?_,
    fun hend => ?_, rfl⟩
  · exact (outWord_convertedPixel s _).trans (if_pos rfl)
  · exact (outByte_putOut s _ _ a).trans (if_neg (by omega))
  · exact ⟨(curCol_convertedPixel s).trans (if_pos hnext), if_pos hnext⟩
  · have hlast : ¬ curCol s + 1 < frameW s := Nat.not_lt.mpr (Nat.le_of_eq hend.symm)
    exact ⟨if_neg hlast, (curRow_convertedPixel hrow).trans (if_neg hlast)⟩

/-- Settles O35: the move that ends the walk. -/
theorem walkCompletes : Obligations.WalkCompletes := by
  intro s hp he
  exact engineStep_of_engineMove (.complete hp (he.imp id fun hw => by simp [frameW, hw]))

/-- No action faults where the sequencer's invariants hold: the engine answers, and the host's accesses answer or are
refused (20_memory R56, R66). -/
theorem act_ne_fault {s : State} (h : SequencerInv s) (a : Action) (f : Fault) : act a s ≠ .fault f := by
  cases a with
  | engine =>
    obtain ⟨t, ht⟩ := engineStep_next h
    simp [act, ht]
  | regWrite bits off d =>
    obtain ⟨t, ht⟩ := regWrite_next (regAt off) d s
    simp only [act, ht]
    split <;> nofun
  | regRead bits off =>
    simp only [act]
    split <;> nofun
  | planeWrite | outWrite =>
    simp only [act, bufferWrite]
    split <;> nofun
  | poll | planeRead | outRead | outByteRead => nofun

theorem step_ne_fault {s : State} (h : SequencerInv s) (f : Fault) : step s ≠ .fault f := by
  unfold step
  split
  · obtain ⟨t, ht⟩ := engineStep_next h
    simp [ht]
  · rename_i i rest hi
    unfold applyInput
    split
    · nofun
    · exact act_ne_fault (s := withInputs s rest) (h.of_control_eq rfl) i.act f

/-- Settles O32: the guard bounds the reads, and the frame bounds the write. -/
theorem engineStaysInBounds : Obligations.EngineStaysInBounds := by
  intro s h
  refine ⟨step_ne_fault h, engineStep_next h, fun hp hr hw hg => ?_⟩
  obtain ⟨hrow, hcol⟩ := h.cursor_in_frame hp hr hw
  obtain ⟨hy, ha, hb⟩ := reads_in_bounds_of_not_guardTrips hg
  exact ⟨hy, ha, hb, lumaCursor_lt_npix hrow hcol, h.outLongEnough (by simp [hp])⟩

/-- Settles O54: the engine's turn takes the input, and with none left there is none to take. -/
theorem engineTurnRunsEngineStep : Obligations.EngineTurnRunsEngineStep := by
  intro s
  exact ⟨fun rest => step_plain s .engine rest, step_alone⟩

/-- Settles O31: both turns are the engine's, which has no step in IDLE. -/
theorem idleBlockDoesNothing : Obligations.IdleBlockDoesNothing := by
  intro s hp
  constructor
  · intro hi
    rw [step_alone hi]
    exact engineStep_of_engineMove (.idle hp)
  · intro rest hi
    rw [step_engineTurn hi]
    exact engineStep_of_engineMove (.idle hp)

end Sys2Proof.Machine
end

section
/-! PROOFS of the family 42_color_transform: the raw channels, saturation and the word of a pixel as numbers, and the OUT
words of an operation as values of its frame alone. -/

namespace Sys2Proof.Machine

/-! ### The raw channels (42_color_transform R143 to R145, R150) -/

/-- Settles O25: the equations are the definition's; each range is met at the ends of its bytes. -/
theorem rawChannelsStayInRange : Obligations.RawChannelsStayInRange := by
  intro y1 ca cb
  have hy := y1.isLt
  have ha := ca.isLt
  have hb := cb.isLt
  refine ⟨rfl, ?red, ?green, ?blue⟩
  all_goals
    simp only [transform, lumaTerm, bias]
    omega

/-- R150: the signs of the coefficients give the order of the raw channels. -/
theorem transform_mono {y y' : Byte} {u u' v v' : Int} (hy : y.toNat ≤ y'.toNat) (hu : u ≤ u') (hv : v ≤ v') :
    (transform y u v).red ≤ (transform y' u' v').red ∧ (transform y u v).blue ≤ (transform y' u' v').blue ∧
      (transform y u' v').green ≤ (transform y' u v).green := by
  simp only [transform, lumaTerm]
  omega

/-! ### Saturation (R147) -/

theorem clamp_eq_max_min {lo hi : Int} (h : lo ≤ hi) (x : Int) : clamp lo hi x = max lo (min hi x) := by
  unfold clamp
  split
  · omega
  · split <;> omega

/-- No clamped channel is negative, so that a saturated one is its number. -/
theorem saturate_cast_eq_max_min (x : Int) : (saturate x : Int) = max 0 (min 262143 x) := by
  rw [saturate, satMax, clamp_eq_max_min (by decide)]
  exact Int.toNat_of_nonneg (le_max_left ..)

theorem saturate_cast (x : Int) : (saturate x : Int) = clamp 0 262143 x :=
  (saturate_cast_eq_max_min x).trans (clamp_eq_max_min (by decide) x).symm

theorem saturate_le (x : Int) : saturate x ≤ 262143 := by
  have h := saturate_cast_eq_max_min x
  omega

theorem saturate_mono {x x' : Int} (h : x ≤ x') : saturate x ≤ saturate x' := by
  have hx := saturate_cast_eq_max_min x
  have hx' := saturate_cast_eq_max_min x'
  omega

/-- A raw value that is not negative is only cut off from above. -/
theorem saturate_natCast (n : Nat) : saturate n = min 262143 n := by
  have h := saturate_cast_eq_max_min n
  omega

/-- Settles O29: saturation and de-scaling keep the order of the raw channels. -/
theorem channelsAreMonotone : Obligations.ChannelsAreMonotone := by
  intro y y' u u' v v' hy hu hv
  obtain ⟨hred, hblue, hgreen⟩ := transform_mono hy hu hv
  exact ⟨⟨hred, hblue, hgreen⟩, Nat.div_le_div_right (saturate_mono hred), Nat.div_le_div_right (saturate_mono hblue),
    Nat.div_le_div_right (saturate_mono hgreen)⟩

/-! ### The word of a pixel (R148, 43_output_packer R160) -/

/-- A mask of `n` ones at bit `k` selects a field of `n` bits and leaves it in place. -/
theorem and_mask_eq (x n k : Nat) : x &&& (2 ^ n - 1) <<< k = (x >>> k % 2 ^ n) <<< k := by
  rw [← Nat.and_two_pow_sub_one_eq_mod, Nat.shiftLeft_and_distrib]
  refine Nat.eq_of_testBit_eq fun i => ?_
  by_cases hi : k ≤ i <;> simp [hi]

/-- The three fields of a packed word do not meet, so that their OR is their sum. -/
theorem pack_toNat {rs gs bs : Nat} (hr : rs ≤ 262143) (hg : gs ≤ 262143) (hb : bs ≤ 262143) :
    (pack rs gs bs).toNat = rs / 1024 * 65536 + gs / 1024 * 256 + bs / 1024 := by
  have hred : rs <<< 6 &&& 0xFF0000 = (rs / 1024) <<< 16 := by
    refine (and_mask_eq (rs <<< 6) 8 16).trans (congrArg (· <<< 16) ?_)
    rw [Nat.shiftLeft_eq, Nat.shiftRight_eq_div_pow]
    omega
  have hgreen : gs >>> 2 &&& 0xFF00 = (gs / 1024) <<< 8 := by
    refine (and_mask_eq (gs >>> 2) 8 8).trans (congrArg (· <<< 8) ?_)
    rw [← Nat.shiftRight_add, Nat.shiftRight_eq_div_pow]
    omega
  have hblue : bs >>> 10 &&& 0xFF = bs / 1024 := by
    rw [Nat.and_two_pow_sub_one_eq_mod _ 8, Nat.shiftRight_eq_div_pow]
    omega
  have hlow : (gs / 1024) <<< 8 ||| bs / 1024 = gs / 1024 * 256 + bs / 1024 := by
    rw [← Nat.shiftLeft_add_eq_or_of_lt (by omega), Nat.shiftLeft_eq]
  simp only [pack, scaleBits, hred, hgreen, hblue, Nat.or_assoc, hlow, BitVec.toNat_ofNat]
  rw [← Nat.shiftLeft_add_eq_or_of_lt (by omega), Nat.shiftLeft_eq]
  omega

/-- The word of a pixel has its three saturated, de-scaled channels in bytes 2, 1 and 0. -/
theorem pixelWord_toNat (y1 ca cb : Byte) :
    (pixelWord y1 ca cb).toNat =
      saturate (transform y1 (bias ca) (bias cb)).red / 1024 * 65536 +
        saturate (transform y1 (bias ca) (bias cb)).green / 1024 * 256 +
        saturate (transform y1 (bias ca) (bias cb)).blue / 1024 :=
  pack_toNat (saturate_le _) (saturate_le _) (saturate_le _)

/-- A de-scaled channel is the floor of R148. -/
theorem channel_cast (x : Int) : ((saturate x / 1024 : Nat) : Int) = clamp 0 262143 x / 1024 := by
  rw [Int.natCast_ediv, saturate_cast]
  rfl

/-- R148: a channel lies in [0, 255]. -/
theorem channel_le (x : Int) : saturate x / 1024 ≤ 255 := Nat.div_le_div_right (saturate_le x)

/-- Settles O27: the channels are the three fields of the word. -/
theorem pixelWordChannels : Obligations.PixelWordChannels := by
  intro y1 ca cb
  exact ⟨_, _, _, channel_cast _, channel_cast _, channel_cast _, channel_le _, channel_le _, channel_le _,
    pixelWord_toNat y1 ca cb⟩

theorem transform_achromatic (y1 : Byte) :
    transform y1 0 0 = { red := 1192 * y1.toNat, green := 1192 * y1.toNat, blue := 1192 * y1.toNat } := by
  simp [transform, lumaTerm]

/-- Settles O28: the three raw channels are one number, which is not negative. -/
theorem achromaticPixelIsGrey : Obligations.AchromaticPixelIsGrey := by
  have hbias : bias 0x80 = 0 := by decide
  refine ⟨hbias, fun y1 => ⟨transform_achromatic y1, ?_⟩⟩
  have hsat : saturate (1192 * (y1.toNat : Int)) = min 262143 (1192 * y1.toNat) := saturate_natCast (1192 * y1.toNat)
  rw [pixelWord_toNat, hbias, transform_achromatic, hsat]
  omega

/-- Settles O30: each corner is evaluated, raw and packed. -/
theorem extremesSaturate : Obligations.ExtremesSaturate :=
  ⟨⟨by decide, by decide⟩, ⟨by decide, by decide⟩, ⟨by decide, by decide⟩, by decide, by decide⟩

/-! ### The OUT words of an operation (R153) -/

/-- The word that a CONVERT_ALLOC leaves for pixel (i, j): its own where it is converted, else 0 (43_output_packer R166 to
R168). -/
def allocPixel (s : State) (i j : Nat) : Word :=
  if s.formatTag = Config.fmtYuv420 ∧ guardTrips s i j = false then pixelValue s i j else 0

/-- Every word of the frame is the word of a pixel. -/
theorem exists_pixel_of_lt_npix {s : State} {k : Nat} (hk : k < npix s) :
    ∃ i j, i < frameH s ∧ j < frameW s ∧ lumaCursor s i j = k := by
  have hw : 0 < frameW s := Nat.pos_of_mul_pos_right (Nat.zero_lt_of_lt hk)
  exact ⟨k / frameW s, k % frameW s, Nat.div_lt_of_lt_mul hk, Nat.mod_lt k hw, Nat.div_add_mod' k (frameW s)⟩

/-- A zero-fill that is left alone until PHASE is IDLE again, the conversion that may follow it included, leaves in every
word of the frame a value of the frame alone. -/
theorem outWord_of_zfill_run {s0 s t : State} {n i j : Nat} (hframe : SameFrame s0 s) (hinv : SequencerInv s)
    (hin : s.inputs = []) (hp : s.phase = .zfill) (hzero : ∀ k < s.zidx.toNat, outWord s k = 0)
    (hrun : run n s = .next t) (ht : t.phase = .idle) (hi : i < frameH s0) (hj : j < frameW s0) :
    outWord t (lumaCursor s0 i j) = allocPixel s0 i j := by
  induction n generalizing s with
  | zero =>
    cases hrun
    simp [hp] at ht
  | succ n ih =>
    obtain ⟨u, hstep, hrun⟩ := step_of_run_succ hrun
    have hm : EngineMove s u := engineMove_of_engineStep ((step_alone hin).symm.trans hstep)
    have huframe : SameFrame s0 u := hframe.trans (hm.sameFrame hinv)
    have huinv : SequencerInv u := hm.sequencerInv hinv
    have huin : u.inputs = [] := hm.inputs_eq.trans hin
    have hpixel : lumaCursor s0 i j < npix s := hframe.npix_eq ▸ lumaCursor_lt_npix hi hj
    cases hm with
    | idle hp' | complete hp' | truncate hp' | pixel hp' => simp [hp] at hp'
    | zero _ hlt =>
      refine ih huframe huinv huin hp (fun k hk => ?_) hrun
      rw [zidx_zeroedWord_toNat hlt] at hk
      rw [outWord_zeroedWord]
      split
      · rfl
      · exact hzero k (by omega)
    | zeroSkip _ hle hf =>
      rw [run_idle n rfl huin] at hrun
      cases hrun
      rw [allocPixel, if_neg fun hconv => hf (hframe.formatTag ▸ hconv.1)]
      exact hzero _ (by omega)
    | zeroDone _ hle hf =>
      have hwalk := WalkProgress.of_first huframe rfl rfl (fun _ => rfl) rfl
      rw [(hwalk.image_of_run huinv huin rfl hrun ht).words i j hi hj, allocPixel]
      have hf0 : s0.formatTag = Config.fmtYuv420 := hframe.formatTag.trans hf
      cases hg : guardTrips s0 i j with
      | true =>
        rw [if_pos rfl, if_neg (by simp)]
        exact hzero _ (by omega)
      | false => simp [hf0]

/-- A conversion that is left alone until PHASE is IDLE again leaves each converted pixel's own word. -/
theorem outWord_of_conv_run {s t : State} {n i j : Nat} (hinv : SequencerInv s) (hin : s.inputs = []) (hp : s.phase = .conv)
    (hrow : s.row = 0) (hcol : s.col = 0) (hrun : run n s = .next t) (ht : t.phase = .idle) (hi : i < frameH s)
    (hj : j < frameW s) (hg : guardTrips s i j = false) : outWord t (i * frameW s + j) = pixelValue s i j := by
  obtain ⟨hwords, -, -⟩ := conversionWritesExactlyUnguardedPixels s t n hinv hp hrow hcol hin hrun ht
  rw [hwords i j hi hj, if_neg (by simp [hg])]

/-- Settles O42: the words of both runs are the same values of the frame. -/
theorem outputDependsOnlyOnFrame : Obligations.OutputDependsOnlyOnFrame := by
  intro s t s' t' m n hs ht hframe hsin htin hsrun hsidle htrun htidle
  constructor
  · intro hsp hsz htp htz k hk
    obtain ⟨i, j, hi, hj, rfl⟩ := exists_pixel_of_lt_npix hk
    have hself : SameFrame s s := .of_configuration_eq rfl fun _ _ => rfl
    have hsword := outWord_of_zfill_run hself hs hsin hsp (by simp [hsz]) hsrun hsidle hi hj
    have htword := outWord_of_zfill_run hframe ht htin htp (by simp [htz]) htrun htidle hi hj
    exact hsword.trans htword.symm
  · intro hsp hsr hsc htp htr htc i j hi hj hg
    have htword := outWord_of_conv_run ht htin htp htr htc htrun htidle (hframe.frameH_eq ▸ hi) (hframe.frameW_eq ▸ hj)
      ((hframe.guardTrips_eq i j).trans hg)
    rw [hframe.frameW_eq, hframe.pixelValue_eq] at htword
    exact (outWord_of_conv_run hs hsin hsp hsr hsc hsrun hsidle hi hj hg).trans htword.symm

end Sys2Proof.Machine
end

section
/-! PROOFS of the family 43_output_packer: the packed word as bit fields, the single steps of the zero-fill, and the phase
when it is left alone. -/

namespace Sys2Proof.Machine

/-! ### The packed word (43_output_packer R161) -/

/-- A byte put before `m` bits is the higher digit of the number they make. -/
theorem toNat_byte_append {m : Nat} (x : Byte) (y : BitVec m) : (x ++ y).toNat = x.toNat * 2 ^ m + y.toNat := by
  rw [BitVec.toNat_append, ← Nat.shiftLeft_add_eq_or_of_lt y.isLt, Nat.shiftLeft_eq]

/-- Bits 17:10 of an 18-bit channel are the channel without its 10 fractional bits. -/
theorem channelBits_toNat (c : BitVec 18) : (c.extractLsb' 10 8).toNat = c.toNat / 1024 := by
  have hc := c.isLt
  rw [BitVec.extractLsb'_toNat, Nat.shiftRight_eq_div_pow]
  omega

/-- Settles O26: both words are the number with the same three digits. -/
theorem packSelectsChannelBits : Obligations.PackSelectsChannelBits := by
  intro rs gs bs
  refine BitVec.eq_of_toNat_eq ?_
  have hle (c : BitVec 18) : c.toNat ≤ 262143 := Nat.le_of_lt_succ c.isLt
  rw [pack_toNat (hle rs) (hle gs) (hle bs)]
  simp only [toNat_byte_append, channelBits_toNat, BitVec.ofNat_eq_ofNat, BitVec.toNat_zero]
  omega

/-! ### The steps of the zero-fill (R166, R167) -/

/-- While words of the frame are left, a zero-fill step is the move that zeroes one. -/
theorem engineStep_zeroedWord {s : State} (hp : s.phase = .zfill) (hz : s.zidx.toNat < npix s)
    (hl : npix s ≤ s.outLen.toNat) : engineStep s = .next (zeroedWord s) :=
  engineStep_of_engineMove (.zero hp hz (Nat.lt_of_lt_of_le hz hl))

/-- Settles O36: the moves of the zero-fill, the first of them field by field. -/
theorem zeroFillStepZeroesOneWord : Obligations.ZeroFillStepZeroesOneWord := by
  intro s hinv hp
  refine ⟨fun hz => ?zero, fun hz hf => engineStep_of_engineMove (.zeroDone hp hz hf),
    fun hz hf => engineStep_of_engineMove (.zeroSkip hp hz hf)⟩
  refine ⟨zeroedWord s, engineStep_zeroedWord hp hz (hinv.zfillInBounds hp).2, ?_, fun a ha => ?_,
    zidx_zeroedWord_toNat hz, rfl⟩
  · exact (outWord_zeroedWord s _).trans (if_pos rfl)
  · exact (outByte_putOut s _ _ a).trans (if_neg (by omega))

/-! ### The zero-fill left alone -/

/-- `t` is `s` with the words below `n` zeroed and ZIDX at `n`. -/
structure ZeroFilled (s : State) (n : Nat) (t : State) : Prop where
  frame : t = { s with bufOut := t.bufOut, zidx := t.zidx }
  cursor : t.zidx.toNat = n
  words : ∀ k, outWord t k = if k < n then 0 else outWord s k

section
variable {s t : State} {n : Nat}

theorem ZeroFilled.refl (hz : s.zidx = 0) : ZeroFilled s 0 s where
  frame := rfl
  cursor := by simp [hz]
  words k := (if_neg (Nat.not_lt_zero k)).symm

/-- What depends on neither OUT nor ZIDX is what it was in `s`. -/
theorem ZeroFilled.keeps {α : Type} (h : ZeroFilled s n t) (f : State → α)
    (hf : ∀ m z, f { s with bufOut := m, zidx := z } = f s) : f t = f s :=
  (congrArg f h.frame).trans (hf _ _)

theorem ZeroFilled.npix_eq (h : ZeroFilled s n t) : npix t = npix s := h.keeps npix fun _ _ => rfl

theorem ZeroFilled.phase_eq (h : ZeroFilled s n t) : t.phase = s.phase := h.keeps State.phase fun _ _ => rfl

/-- With no input left in `s` the next step is the engine's. -/
theorem ZeroFilled.step_eq (h : ZeroFilled s n t) (hi : s.inputs = []) : step t = engineStep t :=
  step_alone ((h.keeps State.inputs fun _ _ => rfl).trans hi)

/-- One more zeroed word. -/
theorem ZeroFilled.zeroedWord (h : ZeroFilled s n t) (hn : n < npix s) : ZeroFilled s (n + 1) (zeroedWord t) where
  frame := congrArg Machine.zeroedWord h.frame
  cursor := by rw [zidx_zeroedWord_toNat (by rw [h.cursor, h.npix_eq]; exact hn), h.cursor]
  words k := by
    rw [outWord_zeroedWord, h.cursor, h.words]
    by_cases hk : k = n
    · rw [if_pos hk, if_pos (by omega)]
    · rw [if_neg hk]
      exact if_congr (by omega) rfl rfl

/-- Left alone, the engine zeroes the next word while one of the frame is left. -/
theorem ZeroFilled.step_of_lt (h : ZeroFilled s n t) (hinv : SequencerInv s) (hp : s.phase = .zfill) (hi : s.inputs = [])
    (hn : n < npix s) : step t = .next (Machine.zeroedWord t) := by
  have hz : t.zidx.toNat < npix t := by
    rw [h.cursor, h.npix_eq]
    exact hn
  have hl : npix t ≤ t.outLen.toNat := by
    rw [h.npix_eq, h.keeps State.outLen fun _ _ => rfl]
    exact (hinv.zfillInBounds hp).2
  exact (h.step_eq hi).trans (engineStep_zeroedWord (h.phase_eq.trans hp) hz hl)

/-- A zero-fill that is left alone has zeroed `n` words after `n` steps (41_pixel_walk R137). -/
theorem run_zeroFilled (hinv : SequencerInv s) (hp : s.phase = .zfill) (hz : s.zidx = 0) (hi : s.inputs = [])
    (hn : n ≤ npix s) : ∃ t, run n s = .next t ∧ ZeroFilled s n t := by
  induction n with
  | zero => exact ⟨s, rfl, .refl hz⟩
  | succ n ih =>
    obtain ⟨t, hrun, hfill⟩ := ih (Nat.le_of_succ_le hn)
    have hstep : step t = .next (zeroedWord t) := hfill.step_of_lt hinv hp hi hn
    exact ⟨zeroedWord t, (run_add 1 hrun).trans (run_succ_of_step hstep 0), hfill.zeroedWord hn⟩

end

/-- Settles O40: the words one by one, then the move of the format check. -/
theorem zeroFillPhase : Obligations.ZeroFillPhase := by
  intro s hinv hp hz hi
  constructor
  · intro n hn
    obtain ⟨t, hrun, hfill⟩ := run_zeroFilled hinv hp hz hi hn
    exact ⟨t, hrun, hfill.phase_eq.trans hp, hfill.cursor, hfill.words⟩
  · obtain ⟨t, hrun, hfill⟩ := run_zeroFilled hinv hp hz hi (Nat.le_refl _)
    have htp : t.phase = .zfill := hfill.phase_eq.trans hp
    have htf : t.formatTag = s.formatTag := hfill.keeps State.formatTag fun _ _ => rfl
    have hts : t.status = s.status := hfill.keeps State.status fun _ _ => rfl
    have hend : npix t ≤ t.zidx.toNat := by rw [hfill.cursor, hfill.npix_eq]
    have last {u : State} (hm : EngineMove t u) : run (npix s + 1) s = .next u :=
      (run_add 1 hrun).trans (run_succ_of_step ((hfill.step_eq hi).trans (engineStep_of_engineMove hm)) 0)
    by_cases hf : s.formatTag = Config.fmtYuv420
    · exact ⟨_, last (.zeroDone htp hend (htf.trans hf)), hfill.words, (if_pos hf).symm, fun hne => absurd hf hne⟩
    · exact ⟨_, last (.zeroSkip htp hend (htf ▸ hf)), hfill.words, (if_neg hf).symm, fun _ => hts ▸ rfl⟩

end Sys2Proof.Machine
end

section
/-! PROOFS of the family 70_reset_and_hazards: the step that meets a reset, with what it leaves in OUT, and the refusal of
host buffer writes during an operation. -/

namespace Sys2Proof.Machine

/-! ### A step that meets a reset (70_reset_and_hazards R200, R201) -/

/-- The reset takes precedence over the action it meets (log entry 7). -/
theorem step_reset {s : State} {rest : List Input} {a : Action} (hi : s.inputs = { reset := true, act := a } :: rest) :
    step s = .next (resetBlock (withInputs s rest)) := by
  simp only [step, hi, applyInput, if_true]

/-- Only words below NPIX are drawn (93_implementation_defined I11). -/
theorem lt_npix_of_resetKeepsWord_eq_false {s : State} {k : Nat} (h : resetKeepsWord s k = false) : k < npix s := by
  by_contra hk
  rw [resetKeepsWord_of_npix_le (Nat.not_lt.mp hk)] at h
  cases h

/-- A word of OUT after a reset stands, or it is a word of the abandoned operation's frame with its prior value (R201). -/
theorem outWord_resetBlock_cases (s : State) (k : Nat) :
    outWord (resetBlock s) k = outWord s k ∨
      (s.status.busy = true ∧ k < npix s ∧ outWord (resetBlock s) k = priorWord s k) := by
  rw [outWord_resetBlock]
  by_cases h : s.status.busy = true ∧ resetKeepsWord s k = false
  · obtain ⟨hb, hdrawn⟩ := h
    exact .inr ⟨hb, lt_npix_of_resetKeepsWord_eq_false hdrawn, if_pos ⟨hb, hdrawn⟩⟩
  · exact .inl (if_neg h)

/-- A byte of OUT that no operation under way can write stays through a reset (R201). -/
theorem outByte_resetBlock_of_stays {s : State} {b : Nat} (h : s.status.busy = false ∨ 4 * npix s ≤ b) :
    outByte (resetBlock s) b = outByte s b := by
  rw [outByte_resetBlock, if_neg]
  rintro ⟨hb, hdrawn⟩
  rcases h with hidle | hbeyond
  · rw [hb] at hidle
    cases hidle
  · have hk : b / 4 < npix s := lt_npix_of_resetKeepsWord_eq_false hdrawn
    omega

/-- Settles O52: the step is `resetBlock`; its frame is its definition, and OUT is drawn word by word below NPIX. -/
theorem resetClearsBlockAndKeepsPlanes : Obligations.ResetClearsBlockAndKeepsPlanes := by
  intro s rest a hi
  exact ⟨resetBlock (withInputs s rest), step_reset hi, planeByte_resetBlock (withInputs s rest),
    outWord_resetBlock_cases (withInputs s rest), fun _ => outByte_resetBlock_of_stays (s := withInputs s rest), rfl⟩

/-! ### Host buffer writes during an operation (R210) -/

theorem bufferWrite_refused {s : State} (hb : s.status.busy = true) (t : State) :
    bufferWrite s t = .refused .bufferWriteWhileBusy :=
  if_pos hb

/-- Settles O21: both writes are `bufferWrite`. -/
theorem bufferWritesWhileBusyAreRefused : Obligations.BufferWritesWhileBusyAreRefused := by
  intro s rest hb
  exact ⟨fun _ _ _ => bufferWrite_refused (s := withInputs s rest) hb _,
    fun _ _ => bufferWrite_refused (s := withInputs s rest) hb _⟩

end Sys2Proof.Machine
end
